-- ==== Sys2Proof/Word.lean ====
section
/-! DEFINITION. The machine's word types (R5, R7 of 00_scope.md). Nothing in this machine is signed. -/

namespace Sys2Proof

/-- A general register, a timer, a memory cell: 8 bits (R5). -/
abbrev Byte := BitVec 8

/-- `pc`, `I`, a call-stack slot, an instruction word: 16 bits (R5). -/
abbrev Word := BitVec 16

/-- The index of a general register, 0 to 15: every 4-bit field names one (R20 of 10_state.md). -/
abbrev RegIdx := Fin 16

/-- The index of a key, 0 to 15 (R26 of 10_state.md, R258 of 60_exceptions.md). -/
abbrev KeyIdx := Fin 16

/-- The flag register VF, `x[0xF]` (R21 of 10_state.md). -/
abbrev VF : RegIdx := 15

end Sys2Proof
end

