-- ==== Sys2Proof/Syntax.lean ====
section
/-! DEFINITION. The 34 instructions, one constructor per row of the opcode map (R86 of 30_encoding.md), with the
operands of R83: register indices, literal bytes KK, address literals NNN, the row count N. -/

namespace Sys2Proof

/-- An instruction. The order is that of R86; the constructor's name is the source's name in camel case. -/
inductive Instr where
  /-- `clear-screen` (R201). -/
  | clearScreen
  /-- `return` (R130). -/
  | ret
  /-- `jump(addr)` (R131). -/
  | jump (addr : BitVec 12)
  /-- `call(addr)` (R132). -/
  | call (addr : BitVec 12)
  /-- `skip-eq-imm(x,kk)` (R133). -/
  | skipEqImm (x : RegIdx) (kk : Byte)
  /-- `skip-ne-imm(x,kk)` (R134). -/
  | skipNeImm (x : RegIdx) (kk : Byte)
  /-- `skip-eq-reg(x,y)` (R135). -/
  | skipEqReg (x y : RegIdx)
  /-- `load-imm(x,kk)` (R152). -/
  | loadImm (x : RegIdx) (kk : Byte)
  /-- `add-imm(x,kk)` (R153). -/
  | addImm (x : RegIdx) (kk : Byte)
  /-- `load-reg(x,y)` (R154). -/
  | loadReg (x y : RegIdx)
  /-- `or(x,y)` (R155). -/
  | orReg (x y : RegIdx)
  /-- `and(x,y)` (R156). -/
  | andReg (x y : RegIdx)
  /-- `xor(x,y)` (R157). -/
  | xorReg (x y : RegIdx)
  /-- `add-reg(x,y)` (R158). -/
  | addReg (x y : RegIdx)
  /-- `sub-reg(x,y)` (R159). -/
  | subReg (x y : RegIdx)
  /-- `shift-right(x)` (R160). -/
  | shiftRight (x : RegIdx)
  /-- `subn-reg(x,y)` (R161). -/
  | subnReg (x y : RegIdx)
  /-- `shift-left(x)` (R162). -/
  | shiftLeft (x : RegIdx)
  /-- `skip-ne-reg(x,y)` (R136). -/
  | skipNeReg (x y : RegIdx)
  /-- `set-index(addr)` (R181). -/
  | setIndex (addr : BitVec 12)
  /-- `jump-offset(addr)` (R137). -/
  | jumpOffset (addr : BitVec 12)
  /-- `random(x,kk)` (R163). -/
  | random (x : RegIdx) (kk : Byte)
  /-- `draw(x,y,n)` (R202); `n` is the unsigned count of sprite rows (R83). -/
  | draw (x y : RegIdx) (n : Nat)
  /-- `skip-key-pressed(x)` (R220). -/
  | skipKeyPressed (x : RegIdx)
  /-- `skip-key-not-pressed(x)` (R221). -/
  | skipKeyNotPressed (x : RegIdx)
  /-- `load-delay(x)` (R222). -/
  | loadDelay (x : RegIdx)
  /-- `wait-key(x)` (R223). -/
  | waitKey (x : RegIdx)
  /-- `set-delay(x)` (R224). -/
  | setDelay (x : RegIdx)
  /-- `set-sound(x)` (R225). -/
  | setSound (x : RegIdx)
  /-- `add-index(x)` (R182). -/
  | addIndex (x : RegIdx)
  /-- `font-address(x)` (R183). -/
  | fontAddress (x : RegIdx)
  /-- `store-bcd(x)` (R184). -/
  | storeBcd (x : RegIdx)
  /-- `store-registers(x)` (R185). -/
  | storeRegisters (x : RegIdx)
  /-- `load-registers(x)` (R186). -/
  | loadRegisters (x : RegIdx)
  deriving DecidableEq, Repr

end Sys2Proof
end

