-- ==== Sys2Proof/WellFormed.lean ====
section
/-! DEFINITION. Well-formed instructions (R83 of 30_encoding.md). Register indices, KK and NNN are in range by their
types; the one operand held as a plain count is the sprite height of `draw`, "an unsigned count 0 to 15". -/

namespace Sys2Proof

/-- Whether every operand lies within its field's range (R83, R92). -/
def Instr.wellFormed : Instr → Bool
  | .clearScreen => true
  | .ret => true
  | .jump _ => true
  | .call _ => true
  | .skipEqImm _ _ => true
  | .skipNeImm _ _ => true
  | .skipEqReg _ _ => true
  | .loadImm _ _ => true
  | .addImm _ _ => true
  | .loadReg _ _ => true
  | .orReg _ _ => true
  | .andReg _ _ => true
  | .xorReg _ _ => true
  | .addReg _ _ => true
  | .subReg _ _ => true
  | .shiftRight _ => true
  | .subnReg _ _ => true
  | .shiftLeft _ => true
  | .skipNeReg _ _ => true
  | .setIndex _ => true
  | .jumpOffset _ => true
  | .random _ _ => true
  | .draw _ _ n => decide (n < 16)
  | .skipKeyPressed _ => true
  | .skipKeyNotPressed _ => true
  | .loadDelay _ => true
  | .waitKey _ => true
  | .setDelay _ => true
  | .setSound _ => true
  | .addIndex _ => true
  | .fontAddress _ => true
  | .storeBcd _ => true
  | .storeRegisters _ => true
  | .loadRegisters _ => true

end Sys2Proof
end

