-- ==== Sys2Proof/Decode.lean ====
section
/-! DEFINITION. The decoder and the encoder (30_encoding.md). The numeric opcode values are the customary ones the
spec adopts (R86, D1); PRESUMED, entry 8: unsafe if the hardware uses others. -/

namespace Sys2Proof

/-! ## The fields of an instruction word (R81) -/

/-- OP, `w[15:12]`: the opcode family. -/
def opField (w : Word) : BitVec 4 := w.extractLsb' 12 4

/-- X, `w[11:8]`. -/
def xField (w : Word) : RegIdx := (w.extractLsb' 8 4).toFin

/-- Y, `w[7:4]`. -/
def yField (w : Word) : RegIdx := (w.extractLsb' 4 4).toFin

/-- N, `w[3:0]`. -/
def nField (w : Word) : BitVec 4 := w.extractLsb' 0 4

/-- KK, `w[7:0]`. -/
def kkField (w : Word) : Byte := w.extractLsb' 0 8

/-- NNN, `w[11:0]`. -/
def nnnField (w : Word) : BitVec 12 := w.extractLsb' 0 12

/-! ## Byte order (R52 of 20_memory.md) -/

/-- `hi ++ lo`: the byte at the lower address is `w[15:8]`. -/
def wordOfBytes (hi lo : Byte) : Word := hi ++ lo

/-- The two bytes of a word, the one at the lower address first (R52, R94). -/
def bytesOfWord (w : Word) : List Byte := [w.extractLsb' 8 8, w.extractLsb' 0 8]

/-! ## Decoding -/

/-- Why bytes do not decode. -/
inductive DecodeError where
  /-- Fewer than the 2 bytes every instruction has (R80). -/
  | truncated
  /-- The word selects no row of R86 (R90). -/
  | unknownInstruction (w : Word)
  deriving DecidableEq, Repr

/-- Family 0x0, matched on the whole word (R88). -/
def decodeFamily0 (w : Word) : Except DecodeError Instr :=
  if w = 0x00E0#16 then .ok .clearScreen
  else if w = 0x00EE#16 then .ok .ret
  else .error (.unknownInstruction w)

/-- Family 0x8, selected by the low nibble (R85); the shifts ignore Y (R87). -/
def decodeFamily8 (w : Word) : Except DecodeError Instr :=
  match nField w with
  | 0x0#4 => .ok (.loadReg (xField w) (yField w))
  | 0x1#4 => .ok (.orReg (xField w) (yField w))
  | 0x2#4 => .ok (.andReg (xField w) (yField w))
  | 0x3#4 => .ok (.xorReg (xField w) (yField w))
  | 0x4#4 => .ok (.addReg (xField w) (yField w))
  | 0x5#4 => .ok (.subReg (xField w) (yField w))
  | 0x6#4 => .ok (.shiftRight (xField w))
  | 0x7#4 => .ok (.subnReg (xField w) (yField w))
  | 0xE#4 => .ok (.shiftLeft (xField w))
  | _ => .error (.unknownInstruction w)

/-- Family 0xE, selected by the low byte (R85). -/
def decodeFamilyE (w : Word) : Except DecodeError Instr :=
  match kkField w with
  | 0x9E#8 => .ok (.skipKeyPressed (xField w))
  | 0xA1#8 => .ok (.skipKeyNotPressed (xField w))
  | _ => .error (.unknownInstruction w)

/-- Family 0xF, selected by the low byte (R85). -/
def decodeFamilyF (w : Word) : Except DecodeError Instr :=
  match kkField w with
  | 0x07#8 => .ok (.loadDelay (xField w))
  | 0x0A#8 => .ok (.waitKey (xField w))
  | 0x15#8 => .ok (.setDelay (xField w))
  | 0x18#8 => .ok (.setSound (xField w))
  | 0x1E#8 => .ok (.addIndex (xField w))
  | 0x29#8 => .ok (.fontAddress (xField w))
  | 0x33#8 => .ok (.storeBcd (xField w))
  | 0x55#8 => .ok (.storeRegisters (xField w))
  | 0x65#8 => .ok (.loadRegisters (xField w))
  | _ => .error (.unknownInstruction w)

/-- The two-level dispatch of R84 and R95 on one word; total on all 65536 words. Families 0x5 and 0x9 never look at
`w[3:0]` (R87). The last arm is family 0xF, the one code left. -/
def decodeWord (w : Word) : Except DecodeError Instr :=
  match opField w with
  | 0x0#4 => decodeFamily0 w
  | 0x1#4 => .ok (.jump (nnnField w))
  | 0x2#4 => .ok (.call (nnnField w))
  | 0x3#4 => .ok (.skipEqImm (xField w) (kkField w))
  | 0x4#4 => .ok (.skipNeImm (xField w) (kkField w))
  | 0x5#4 => .ok (.skipEqReg (xField w) (yField w))
  | 0x6#4 => .ok (.loadImm (xField w) (kkField w))
  | 0x7#4 => .ok (.addImm (xField w) (kkField w))
  | 0x8#4 => decodeFamily8 w
  | 0x9#4 => .ok (.skipNeReg (xField w) (yField w))
  | 0xA#4 => .ok (.setIndex (nnnField w))
  | 0xB#4 => .ok (.jumpOffset (nnnField w))
  | 0xC#4 => .ok (.random (xField w) (kkField w))
  | 0xD#4 => .ok (.draw (xField w) (yField w) (nField w).toNat)
  | 0xE#4 => decodeFamilyE w
  | _ => decodeFamilyF w

/-- Decoding bytes as they lie in memory: the instruction and the bytes after it (R52, R80). -/
def decodeBytes : List Byte → Except DecodeError (Instr × List Byte)
  | hi :: lo :: rest =>
    match decodeWord (wordOfBytes hi lo) with
    | .ok i => .ok (i, rest)
    | .error e => .error e
  | _ => .error .truncated

/-! ## Encoding (R94): the inverse; ignored bits are assembled as 0 -/

/-- Format NNN of R82. -/
def encodeNNN (op : BitVec 4) (nnn : BitVec 12) : Word := op ++ nnn

/-- Format XKK of R82, and XS with the selector in place of KK. -/
def encodeXKK (op : BitVec 4) (x : RegIdx) (kk : Byte) : Word := op ++ (BitVec.ofFin x : BitVec 4) ++ kk

/-- Formats XY and XYN of R82. -/
def encodeXYN (op : BitVec 4) (x y : RegIdx) (n : BitVec 4) : Word :=
  op ++ (BitVec.ofFin x : BitVec 4) ++ (BitVec.ofFin y : BitVec 4) ++ n

/-- The instruction word of a well-formed instruction (R86, R94). -/
def encode : Instr → Word
  | .clearScreen => 0x00E0#16
  | .ret => 0x00EE#16
  | .jump addr => encodeNNN 0x1#4 addr
  | .call addr => encodeNNN 0x2#4 addr
  | .skipEqImm x kk => encodeXKK 0x3#4 x kk
  | .skipNeImm x kk => encodeXKK 0x4#4 x kk
  | .skipEqReg x y => encodeXYN 0x5#4 x y 0x0#4
  | .loadImm x kk => encodeXKK 0x6#4 x kk
  | .addImm x kk => encodeXKK 0x7#4 x kk
  | .loadReg x y => encodeXYN 0x8#4 x y 0x0#4
  | .orReg x y => encodeXYN 0x8#4 x y 0x1#4
  | .andReg x y => encodeXYN 0x8#4 x y 0x2#4
  | .xorReg x y => encodeXYN 0x8#4 x y 0x3#4
  | .addReg x y => encodeXYN 0x8#4 x y 0x4#4
  | .subReg x y => encodeXYN 0x8#4 x y 0x5#4
  | .shiftRight x => encodeXYN 0x8#4 x 0 0x6#4
  | .subnReg x y => encodeXYN 0x8#4 x y 0x7#4
  | .shiftLeft x => encodeXYN 0x8#4 x 0 0xE#4
  | .skipNeReg x y => encodeXYN 0x9#4 x y 0x0#4
  | .setIndex addr => encodeNNN 0xA#4 addr
  | .jumpOffset addr => encodeNNN 0xB#4 addr
  | .random x kk => encodeXKK 0xC#4 x kk
  | .draw x y n => encodeXYN 0xD#4 x y (BitVec.ofNat 4 n)
  | .skipKeyPressed x => encodeXKK 0xE#4 x 0x9E#8
  | .skipKeyNotPressed x => encodeXKK 0xE#4 x 0xA1#8
  | .loadDelay x => encodeXKK 0xF#4 x 0x07#8
  | .waitKey x => encodeXKK 0xF#4 x 0x0A#8
  | .setDelay x => encodeXKK 0xF#4 x 0x15#8
  | .setSound x => encodeXKK 0xF#4 x 0x18#8
  | .addIndex x => encodeXKK 0xF#4 x 0x1E#8
  | .fontAddress x => encodeXKK 0xF#4 x 0x29#8
  | .storeBcd x => encodeXKK 0xF#4 x 0x33#8
  | .storeRegisters x => encodeXKK 0xF#4 x 0x55#8
  | .loadRegisters x => encodeXKK 0xF#4 x 0x65#8

/-- The image bytes of an instruction (R94). -/
def encodeBytes (i : Instr) : List Byte := bytesOfWord (encode i)

/-! ## The opcode map as a table (R86): a word selects a row when `w &&& mask = pattern` -/

/-- One row of R86. -/
structure OpcodeRow where
  pattern : Word
  mask : Word
  deriving DecidableEq, Repr

/-- Rows 1 to 18 of R86. -/
def opcodeRowsLow : List OpcodeRow :=
  [⟨0x00E0, 0xFFFF⟩, ⟨0x00EE, 0xFFFF⟩, ⟨0x1000, 0xF000⟩, ⟨0x2000, 0xF000⟩, ⟨0x3000, 0xF000⟩, ⟨0x4000, 0xF000⟩,
   ⟨0x5000, 0xF000⟩, ⟨0x6000, 0xF000⟩, ⟨0x7000, 0xF000⟩, ⟨0x8000, 0xF00F⟩, ⟨0x8001, 0xF00F⟩, ⟨0x8002, 0xF00F⟩,
   ⟨0x8003, 0xF00F⟩, ⟨0x8004, 0xF00F⟩, ⟨0x8005, 0xF00F⟩, ⟨0x8006, 0xF00F⟩, ⟨0x8007, 0xF00F⟩, ⟨0x800E, 0xF00F⟩]

/-- Rows 19 to 34 of R86. -/
def opcodeRowsHigh : List OpcodeRow :=
  [⟨0x9000, 0xF000⟩, ⟨0xA000, 0xF000⟩, ⟨0xB000, 0xF000⟩, ⟨0xC000, 0xF000⟩, ⟨0xD000, 0xF000⟩, ⟨0xE09E, 0xF0FF⟩,
   ⟨0xE0A1, 0xF0FF⟩, ⟨0xF007, 0xF0FF⟩, ⟨0xF00A, 0xF0FF⟩, ⟨0xF015, 0xF0FF⟩, ⟨0xF018, 0xF0FF⟩, ⟨0xF01E, 0xF0FF⟩,
   ⟨0xF029, 0xF0FF⟩, ⟨0xF033, 0xF0FF⟩, ⟨0xF055, 0xF0FF⟩, ⟨0xF065, 0xF0FF⟩]

/-- The 34 rows of R86, in its order. -/
def opcodeTable : List OpcodeRow := opcodeRowsLow ++ opcodeRowsHigh

/-! ## The host's entry point -/

/-- The word an opcode-table row's bits stand for, the bits above `nbits` zero; every instruction is one word (R80). -/
def tableWord (nbits w : Nat) : Word := BitVec.ofNat 16 (w % 2 ^ nbits)

/-- What the decoder reads from the bytes of that word, laid out big-endian (R52). -/
def decodeTableWord (nbits w : Nat) : Option Instr :=
  match decodeBytes (bytesOfWord (tableWord nbits w)) with
  | .ok (i, _) => some i
  | .error _ => none

end Sys2Proof
end

