-- ==== Sys2Proof/Config.lean ====
section
/-! DEFINITION. The fixed parameters of the hardware (R5 of 00_scope.md) and the one free value (R6, R163). -/

namespace Sys2Proof.Config

/-- MEM_SIZE, bytes of memory (R5, R50). -/
abbrev memSize : Nat := 4096

/-- PROG_BASE, the load address and the reset `pc` (R5). -/
abbrev progBase : Nat := 0x200

/-- MAX_IMAGE, the largest program image in bytes (R5, R293). -/
abbrev maxImage : Nat := 3584

/-- STACK_DEPTH, the call-stack frames (R5, R24). -/
abbrev stackDepth : Nat := 16

/-- Bytes of the built-in font: 16 glyphs of 5 bytes (R5, R33). -/
abbrev fontSize : Nat := 80

/-- GLYPH_SIZE, bytes of one glyph (R5, R183). -/
abbrev glyphSize : Nat := 5

/-- DISP_H, display rows (R5, R27). -/
abbrev dispH : Nat := 32

/-- DISP_W, display columns (R5, R27). -/
abbrev dispW : Nat := 64

/-- The free byte of the `k`-th executed `random`: the input `rnd` of R163 (42_alu.md), under no law and fresh at
every execution (D21). It has no body, so nothing about a draw can be proved. DESIGN CHOICE, entry 3: safe. -/
opaque rnd : Nat → Byte

end Sys2Proof.Config
end

