-- ==== Sys2Proof/Machine/State.lean ====
section
/-! DEFINITION. The machine's state (10_state.md), its error values (R240 of 60_exceptions.md), the host's operations
(R262) and the state after reset (R34). Plain data throughout. -/

namespace Sys2Proof.Machine

/-- The error values of R240. Each is entered as a NEXT state with `err` set (R10, R247; entry 1), raised by: -/
inductive ErrorValue where
  /-- Code 1: dispatch, a word outside R86; carries the word. -/
  | unknownInstruction (w : Word)
  /-- Code 2: `call` with 16 frames in use; carries the address of the `call`. -/
  | stackOverflow (pc : Word)
  /-- Code 3: `return` with no frame; carries the address of the `return`. -/
  | stackUnderflow (pc : Word)
  /-- Code 4: a fetch with `pc > 0xFFE`, or a data range beyond 0xFFF; carries the lowest out-of-range address, a
  natural number (R9). -/
  | memOutOfRange (a : Nat)
  /-- Code 5: a fetch with an odd `pc`; carries that `pc`. -/
  | pcMisaligned (pc : Word)
  /-- Code 6: a key skip on a register above 15; carries the register's value. -/
  | keyIndexOutOfRange (v : Byte)
  deriving DecidableEq, Repr

/-- The host's nine operations (R262 of 60_exceptions.md). -/
inductive HostOp where
  /-- reset with a FONT of 80 bytes (R290). -/
  | reset (font : Vector Byte 80)
  /-- load-program of an image (R293). -/
  | loadProgram (image : List Byte)
  /-- "execute one cycle" (R110). -/
  | cycle
  /-- "tick timers" (R255). -/
  | tick
  /-- press(k) (R258). -/
  | press (k : KeyIdx)
  /-- release(k) (R258). -/
  | release (k : KeyIdx)
  /-- Display read (R259). -/
  | readDisplay
  /-- consume-redraw (R260). -/
  | consumeRedraw
  /-- consume-sound-ended (R261). -/
  | consumeSoundEnded
  deriving DecidableEq, Repr

/-- How far the run's one load-program has come: "applied once, after reset and before the first cycle" (R293). -/
inductive LoadPhase where
  /-- Since the reset no load has been answered and no cycle has begun. -/
  | awaited
  /-- The last load answered failure: another load, or a reset, may follow, a cycle may not (R245, R293). -/
  | failed
  /-- A load answered success, or the first cycle has begun: no load may follow without a reset (R263). -/
  | closed
  deriving DecidableEq, Repr

/-- Memory: the bytes that differ from the reset contents, by strictly rising address (R31, R34; the form is
`memWf` of Machine/Ops.lean). -/
abbrev Memory := List Host.Cell

/-- The display: 32 rows, counted from the top, of 64 cells, counted from the left; true is lit (R27). -/
abbrev Display := Vector (Vector Bool 64) 32

/-- Machine State (R20 to R31), and three fields of the model's own at the end (R32). -/
structure State where
  /-- The general registers `x[0]` to `x[15]` (R20, R21). -/
  x : Vector Byte 16
  /-- The index register (R22). -/
  I : Word
  /-- The program counter (R23). -/
  pc : Word
  /-- The number of call-stack frames in use, 0 to 16 (R24). -/
  sp : Fin 17
  /-- The call-stack slots (R24). -/
  stack : Vector Word 16
  /-- The delay timer (R25). -/
  DT : Byte
  /-- The sound timer (R25). -/
  ST : Byte
  /-- The key-state flags, true is pressed (R26). -/
  key : Vector Bool 16
  /-- The display buffer (R27). -/
  disp : Display
  /-- The redraw-pending flag (R28). -/
  redraw : Bool
  /-- The sound-ended flag (R29). -/
  sndEnded : Bool
  /-- The error latch (R30); `none` is the spec's `None`. -/
  err : Option ErrorValue
  /-- The 4096 bytes of memory (R31). -/
  mem : Memory
  /-- The MODEL's own: how many free bytes `random` has drawn (R163; entry 3). -/
  draws : Nat
  /-- The MODEL's own: the host's operations still to come, the next one first; empty means cycles only
  (R6, R62; entry 4). -/
  schedule : List HostOp
  /-- The MODEL's own: what the host has done of load-program since the last reset, the answer of a load with it
  (R245, R263, R293; entry 5). -/
  load : LoadPhase
  deriving DecidableEq, Repr

/-- No step ends in a fault: every stop the spec gives this machine is an error value latched in `err`, and the
halted machine still steps (R116, R247; DEDUCED, entry 1: safe). -/
inductive Fault where
  deriving DecidableEq, Repr

/-- Why a step has no meaning. -/
inductive Refusal where
  /-- An instruction without a meaning yet; raised by an arm of `exec` only. Safe: the model stops. -/
  | notModelled (mnemonic : String)
  /-- A cycle after a load that answered failure: "execution must not proceed" (R245 of 60_exceptions.md, R293 of
  70_reset_and_hazards.md). Raised by `step` only, never by an instruction. Safe: the model stops (entry 6). -/
  | cycleAfterFailedLoad
  /-- A second program without a reset in between, or a load after the first cycle: "A model gives these no move"
  (R263 of 60_exceptions.md). Raised by `step` only, never by an instruction. Safe: the model stops (entry 5). -/
  | loadWithoutReset
  deriving DecidableEq, Repr

/-- The outcome of a step or of an instruction. -/
abbrev Result := Host.Outcome State Fault Refusal

/-- The machine after reset with the default FONT (R34, R290): `pc` at 0x200, memory at its reset contents, every
other element zero, empty, dark, released or `None` (the spec's decisions D4 and D5; entries 7, 9, 10). -/
def State.reset : State where
  x := Vector.replicate 16 0
  I := 0
  pc := 0x0200
  sp := 0
  stack := Vector.replicate 16 0
  DT := 0
  ST := 0
  key := Vector.replicate 16 false
  disp := Vector.replicate 32 (Vector.replicate 64 false)
  redraw := false
  sndEnded := false
  err := none
  mem := []
  draws := 0
  schedule := []
  load := .awaited

end Sys2Proof.Machine
end

