-- ==== Sys2Proof/Machine/Ops.lean ====
section
/-! DEFINITION. The named operations over memory, registers, call stack and display, and the ways an instruction ends:
advance, skip, and the entry of an error (R10, R247). -/

namespace Sys2Proof.Machine

/-! ## The built-in font (R33 of 10_state.md; the bytes are PRESUMED, entry 7) -/

/-- Glyphs 0 to 3. -/
def fontLow : List Byte :=
  [0xF0, 0x90, 0x90, 0x90, 0xF0] ++ [0x20, 0x60, 0x20, 0x20, 0x70] ++
  [0xF0, 0x10, 0xF0, 0x80, 0xF0] ++ [0xF0, 0x10, 0xF0, 0x10, 0xF0]

/-- Glyphs 4 to 7. -/
def fontMidLow : List Byte :=
  [0x90, 0x90, 0xF0, 0x10, 0x10] ++ [0xF0, 0x80, 0xF0, 0x10, 0xF0] ++
  [0xF0, 0x80, 0xF0, 0x90, 0xF0] ++ [0xF0, 0x10, 0x20, 0x40, 0x40]

/-- Glyphs 8 to B. -/
def fontMidHigh : List Byte :=
  [0xF0, 0x90, 0xF0, 0x90, 0xF0] ++ [0xF0, 0x90, 0xF0, 0x10, 0xF0] ++
  [0xF0, 0x90, 0xF0, 0x90, 0x90] ++ [0xE0, 0x90, 0xE0, 0x90, 0xE0]

/-- Glyphs C to F. -/
def fontHigh : List Byte :=
  [0xF0, 0x80, 0x80, 0x80, 0xF0] ++ [0xE0, 0x90, 0x90, 0x90, 0xE0] ++
  [0xF0, 0x80, 0xF0, 0x80, 0xF0] ++ [0xF0, 0x80, 0xF0, 0x80, 0x80]

/-- The default FONT, glyph g at byte 5 * g (R33). -/
def defaultFont : List Byte := fontLow ++ fontMidLow ++ fontMidHigh ++ fontHigh

/-! ## Memory (20_memory.md) -/

/-- What an address that memory does not list reads as: the reset contents, the default font at 0x000 to 0x04F and
0x00 above (R33, R34, R51; entries 7 and 10). -/
def unlisted (a : Nat) : Byte := defaultFont.getD a 0

/-- The canonical form: addresses strictly rising and inside the space, no entry equal to the reset contents. -/
abbrev memWf (m : Memory) : Prop :=
  m.Pairwise (fun p q => p.1 < q.1) ∧ ∀ c ∈ m, c.1 < Config.memSize ∧ c.2 ≠ unlisted c.1

/-- The listed byte at an address. -/
def lookup : Memory → Nat → Option Byte
  | [], _ => none
  | (b, v) :: rest, a => if a = b then some v else lookup rest a

/-- `mem[a]` (R9). The range check stands in the caller (R57, R111), so `a` is in 0 to 0xFFF wherever a step reads. -/
def readByte (m : Memory) (a : Nat) : Byte := (lookup m a).getD (unlisted a)

/-- Putting an entry at its place by address. -/
def insertCell : Memory → Nat → Byte → Memory
  | [], a, v => [(a, v)]
  | (b, w) :: rest, a, v =>
    if a < b then (a, v) :: (b, w) :: rest
    else if a = b then (a, v) :: rest
    else (b, w) :: insertCell rest a v

/-- Taking an address out of the list. -/
def eraseCell (m : Memory) (a : Nat) : Memory := m.filter (fun c => c.1 ≠ a)

/-- `mem[a] <- v` (R9, R59: every in-range address is writable). Writing the reset byte removes the entry. An address
outside the space is left alone; no step writes one, the range check coming first (R58; entry 11). -/
def writeByte (m : Memory) (a : Nat) (v : Byte) : Memory :=
  if a < Config.memSize then (if v = unlisted a then eraseCell m a else insertCell m a v) else m

/-- Writing bytes at ascending addresses (R52, R53). -/
def writeBytes : Memory → Nat → List Byte → Memory
  | m, _, [] => m
  | m, a, v :: rest => writeBytes (writeByte m a v) (a + 1) rest

/-- Reading `n` bytes at ascending addresses (R52, R53). -/
def readBytes (m : Memory) (a n : Nat) : List Byte := (List.range n).map (fun k => readByte m (a + k))

/-! ## Registers and the other fields, one named update each -/

/-- `x[i]` (R20): no register is hard-wired. -/
def State.reg (s : State) (i : RegIdx) : Byte := s.x[i.val]

/-- `x[i] <- v` (R20). -/
def State.setReg (s : State) (i : RegIdx) (v : Byte) : State := { s with x := s.x.set i.val v }

/-- `x` as a whole, for `load-registers`. -/
def State.setRegs (s : State) (x : Vector Byte 16) : State := { s with x := x }

/-- `I <- a` (R22). -/
def State.setI (s : State) (a : Word) : State := { s with I := a }

/-- `pc <- a` (R23). -/
def State.setPc (s : State) (a : Word) : State := { s with pc := a }

/-- `mem <- m`, a memory made by `writeBytes`. -/
def State.setMem (s : State) (m : Memory) : State := { s with mem := m }

/-- `DT <- v` (R25). -/
def State.setDT (s : State) (v : Byte) : State := { s with DT := v }

/-- `ST <- v` (R25). -/
def State.setST (s : State) (v : Byte) : State := { s with ST := v }

/-- `key[k] <- b` (R26). -/
def State.setKey (s : State) (k : KeyIdx) (b : Bool) : State := { s with key := s.key.set k.val b }

/-- `disp <- d` (R27). -/
def State.setDisp (s : State) (d : Display) : State := { s with disp := d }

/-- `redraw <- b` (R28). -/
def State.setRedraw (s : State) (b : Bool) : State := { s with redraw := b }

/-- `snd_ended <- b` (R29). -/
def State.setSndEnded (s : State) (b : Bool) : State := { s with sndEnded := b }

/-- `err <- e` (R30). -/
def State.setErr (s : State) (e : Option ErrorValue) : State := { s with err := e }

/-- The count of free bytes drawn (the model's own counter, entry 3). -/
def State.setDraws (s : State) (n : Nat) : State := { s with draws := n }

/-- The host's operations that remain (the model's own list, entry 4). -/
def State.setSchedule (s : State) (ops : List HostOp) : State := { s with schedule := ops }

/-- What the host has done of load-program (the model's own record, entry 5). -/
def State.setLoad (s : State) (p : LoadPhase) : State := { s with load := p }

/-! ## The call stack (R24): it grows upward, `sp` is the number of frames in use -/

/-- `stack[sp] <- a`, then `sp <- sp + 1`; none when all 16 frames are in use (R132). -/
def State.push (s : State) (a : Word) : Option State :=
  if h : s.sp.val < 16 then
    some { s with stack := s.stack.set s.sp.val a, sp := ⟨s.sp.val + 1, by omega⟩ }
  else none

/-- `sp <- sp - 1`, then the value of `stack[sp]`; none when no frame is in use (R130). The slot keeps its bits. -/
def State.pop (s : State) : Option (State × Word) :=
  if h : 0 < s.sp.val then
    some ({ s with sp := ⟨s.sp.val - 1, by omega⟩ }, s.stack[s.sp.val - 1])
  else none

/-! ## The display (R27, R200) -/

/-- `disp[r][c]`. -/
def cellAt (d : Display) (r : Fin 32) (c : Fin 64) : Bool := d[r.val][c.val]

/-- `disp[r][c] <- disp[r][c] ^ 1`. -/
def toggleCell (d : Display) (r : Fin 32) (c : Fin 64) : Display :=
  d.set r.val (d[r.val].set c.val (!cellAt d r c))

/-- All 2048 cells dark (R201). -/
def darkDisplay : Display := Vector.replicate 32 (Vector.replicate 64 false)

/-- A row coordinate reduced modulo 32 (R202). -/
def wrapRow (n : Nat) : Fin 32 := ⟨n % Config.dispH, Nat.mod_lt _ (by decide)⟩

/-- A column coordinate reduced modulo 64 (R202). -/
def wrapCol (n : Nat) : Fin 64 := ⟨n % Config.dispW, Nat.mod_lt _ (by decide)⟩

/-! ## How an instruction ends (R23, R114) -/

/-- `pc <- pc + 2`, on a state that otherwise has the instruction's effect. -/
def advance (s : State) : Result := .next (s.setPc (s.pc + 2))

/-- `pc <- pc + 4` if the condition holds, else `pc <- pc + 2`; the skipped word is not looked at (R114). -/
def skipIf (c : Bool) (s : State) : Result := .next (s.setPc (s.pc + (if c then 4 else 2)))

/-- `pc <- target`: "sets PC directly" (R114). -/
def goTo (target : Word) (s : State) : Result := .next (s.setPc target)

/-- `raise E(info)`, the one way an error is entered (R10, R247): `err` is set and every other element, `pc` among
them, keeps its value; nothing is saved and no handler is entered. No instruction returns from it (R248): the only
way out is the host's reset (Machine/HostOps.lean). -/
def raise (e : ErrorValue) (s : State) : Result := .next (s.setErr (some e))

/-- An instruction that first makes its own check: the error if there is one, else its effect (R58). -/
def checked (e : Option ErrorValue) (s : State) (k : Result) : Result :=
  match e with
  | some e => raise e s
  | none => k

/-- The numeric code of the error latch (R240). -/
def errorCode : Option ErrorValue → Nat
  | none => 0
  | some (.unknownInstruction _) => 1
  | some (.stackOverflow _) => 2
  | some (.stackUnderflow _) => 3
  | some (.memOutOfRange _) => 4
  | some (.pcMisaligned _) => 5
  | some (.keyIndexOutOfRange _) => 6

/-! ## Fetching (R111 of 40_cycle.md) -/

/-- The two fetch checks in their order: the range, then the alignment (R55, R56, R111, R246). -/
def fetchError (pc : Word) : Option ErrorValue :=
  if pc.toNat > 0xFFE then some (.memOutOfRange pc.toNat)
  else if pc.getLsbD 0 then some (.pcMisaligned pc)
  else none

/-- `mem[pc] ++ mem[pc + 1]`, the byte at the lower address high (R52, R111). -/
def fetchWord (s : State) : Word := wordOfBytes (readByte s.mem s.pc.toNat) (readByte s.mem (s.pc.toNat + 1))

end Sys2Proof.Machine
end

