-- ==== Sys2Proof/Machine/Flags.lean ====
section
/-! DEFINITION. Every flag computation of the machine (R21 of 10_state.md, R164 of 42_alu.md, R202 of 44_display.md), and
the order in which a flag-writing instruction writes (R151). -/

namespace Sys2Proof.Machine

/-- The 8-bit value 0x01 or 0x00 a flag is written as (R21). -/
def flagByte (b : Bool) : Byte := if b then 1 else 0

/-- `add-reg`: the unsigned sum exceeds 255 (R158). -/
def carryOut (a b : Byte) : Bool := decide (a.toNat + b.toNat > 255)

/-- `sub-reg` and `subn-reg`: not-borrow, the minuend is at least the subtrahend, equality included (R159, R161, C3). -/
def notBorrow (a b : Byte) : Bool := decide (a.toNat ≥ b.toNat)

/-- `shift-right`: the bit shifted out (R160). -/
def lostLow (a : Byte) : Bool := a.getLsbD 0

/-- `shift-left`: the bit shifted out (R162). -/
def lostHigh (a : Byte) : Bool := a.getLsbD 7

/-- The result goes to `x[X]`, then the flag to `x[0xF]`, so that with X = 0xF the flag stays (R151). -/
def State.setResultFlag (s : State) (x : RegIdx) (result : Byte) (flag : Bool) : State :=
  (s.setReg x result).setReg VF (flagByte flag)

end Sys2Proof.Machine
end

