-- ==== Sys2Proof/Machine/Operands.lean ====
section
/-! DEFINITION. The operand forms: register and literal operands (R83 of 30_encoding.md), the one data addressing mode
(R57, R180), key indices (R226) and the decimal digits of `store-bcd` (R184). -/

namespace Sys2Proof.Machine

/-- `zext_16(NNN)` (R83). -/
def addrOperand (addr : BitVec 12) : Word := addr.setWidth 16

/-- `zext_16(x[i])` (R137, R182, R183). -/
def regOperand16 (s : State) (i : RegIdx) : Word := (s.reg i).setWidth 16

/-- The check of `mem[I]` to `mem[I + n - 1]`, on natural numbers: an error when n >= 1 and the last byte lies beyond
0xFFF, carrying `max(I, 0x1000)` (R57, R58). -/
def rangeError (I : Word) (n : Nat) : Option ErrorValue :=
  if 1 ≤ n ∧ I.toNat + n - 1 > 0xFFF then some (.memOutOfRange (max I.toNat 0x1000)) else none

/-- The check of a key skip: an error when the register's value is above 15 (R226). -/
def keyError (v : Byte) : Option ErrorValue :=
  if v.toNat > 15 then some (.keyIndexOutOfRange v) else none

/-- `key[v]` for a value in 0 to 15; `keyError` has shut out the others (R220). -/
def keyDown (s : State) (v : Byte) : Bool := s.key.toList.getD v.toNat false

/-- The smallest k with `key[k] = 1`, if any (R223). -/
def lowestKey (s : State) : Option Nat := s.key.toList.findIdx? id

/-- The hundreds, tens and ones of a byte, each a binary value 0 to 9 (R184). -/
def bcdDigits (v : Byte) : List Byte :=
  [BitVec.ofNat 8 (v.toNat / 100), BitVec.ofNat 8 (v.toNat / 10 % 10), BitVec.ofNat 8 (v.toNat % 10)]

/-- `x[0]` to `x[X]` in order (R185). -/
def regsUpTo (s : State) (x : RegIdx) : List Byte := s.x.toList.take (x.val + 1)

/-- The registers after `mem[I]` to `mem[I + X]` are loaded into `x[0]` to `x[X]` (R186). -/
def regsLoaded (s : State) (x : RegIdx) : Vector Byte 16 :=
  Vector.ofFn fun i : Fin 16 => if i.val ≤ x.val then readByte s.mem (s.I.toNat + i.val) else s.reg i

end Sys2Proof.Machine
end

