-- ==== Sys2Proof/Machine/Alu.lean ====
section
/-! DEFINITION. Register arithmetic and logic (42_alu.md). None raises; every one ends with `pc <- pc + 2`. -/

namespace Sys2Proof.Machine

/-- `load-imm(x,kk)` (R152). -/
def execLoadImm (x : RegIdx) (kk : Byte) (s : State) : Result := advance (s.setReg x kk)

/-- `add-imm(x,kk)` (R153): modulo 256, VF not written. -/
def execAddImm (x : RegIdx) (kk : Byte) (s : State) : Result := advance (s.setReg x (s.reg x + kk))

/-- `load-reg(x,y)` (R154). -/
def execLoadReg (x y : RegIdx) (s : State) : Result := advance (s.setReg x (s.reg y))

/-- `or(x,y)` (R155): VF not written as a flag. -/
def execOr (x y : RegIdx) (s : State) : Result := advance (s.setReg x (s.reg x ||| s.reg y))

/-- `and(x,y)` (R156): VF not written as a flag. -/
def execAnd (x y : RegIdx) (s : State) : Result := advance (s.setReg x (s.reg x &&& s.reg y))

/-- `xor(x,y)` (R157): VF not written as a flag. -/
def execXor (x y : RegIdx) (s : State) : Result := advance (s.setReg x (s.reg x ^^^ s.reg y))

/-- `add-reg(x,y)` (R158). -/
def execAddReg (x y : RegIdx) (s : State) : Result :=
  advance (s.setResultFlag x (s.reg x + s.reg y) (carryOut (s.reg x) (s.reg y)))

/-- `sub-reg(x,y)` (R159). -/
def execSubReg (x y : RegIdx) (s : State) : Result :=
  advance (s.setResultFlag x (s.reg x - s.reg y) (notBorrow (s.reg x) (s.reg y)))

/-- `shift-right(x)` (R160): logical, by one place, `x[Y]` not used. -/
def execShiftRight (x : RegIdx) (s : State) : Result :=
  advance (s.setResultFlag x (s.reg x >>> 1) (lostLow (s.reg x)))

/-- `subn-reg(x,y)` (R161). -/
def execSubnReg (x y : RegIdx) (s : State) : Result :=
  advance (s.setResultFlag x (s.reg y - s.reg x) (notBorrow (s.reg y) (s.reg x)))

/-- `shift-left(x)` (R162): by one place, `x[Y]` not used. -/
def execShiftLeft (x : RegIdx) (s : State) : Result :=
  advance (s.setResultFlag x (s.reg x <<< 1) (lostHigh (s.reg x)))

/-- `random(x,kk)` (R163): `rnd` is a free byte, a fresh one at every execution (entry 3). -/
def execRandom (x : RegIdx) (kk : Byte) (s : State) : Result :=
  advance ((s.setReg x (Config.rnd s.draws &&& kk)).setDraws (s.draws + 1))

end Sys2Proof.Machine
end

