-- ==== Sys2Proof/Machine/Control.lean ====
section
/-! DEFINITION. Control transfer (41_control_flow.md). None writes a register, memory, the display, a timer or a key. -/

namespace Sys2Proof.Machine

/-- `return` (R130). -/
def execReturn (s : State) : Result :=
  match s.pop with
  | none => raise (.stackUnderflow s.pc) s
  | some (t, target) => goTo target t

/-- `jump(addr)` (R131). -/
def execJump (addr : BitVec 12) (s : State) : Result := goTo (addrOperand addr) s

/-- `call(addr)` (R132): the pushed value is the address of the instruction after the call. -/
def execCall (addr : BitVec 12) (s : State) : Result :=
  match s.push (s.pc + 2) with
  | none => raise (.stackOverflow s.pc) s
  | some t => goTo (addrOperand addr) t

/-- `skip-eq-imm(x,kk)` (R133). -/
def execSkipEqImm (x : RegIdx) (kk : Byte) (s : State) : Result := skipIf (s.reg x == kk) s

/-- `skip-ne-imm(x,kk)` (R134). -/
def execSkipNeImm (x : RegIdx) (kk : Byte) (s : State) : Result := skipIf (s.reg x != kk) s

/-- `skip-eq-reg(x,y)` (R135). -/
def execSkipEqReg (x y : RegIdx) (s : State) : Result := skipIf (s.reg x == s.reg y) s

/-- `skip-ne-reg(x,y)` (R136). -/
def execSkipNeReg (x y : RegIdx) (s : State) : Result := skipIf (s.reg x != s.reg y) s

/-- `jump-offset(addr)` (R137): always register 0, no reduction modulo 4096. -/
def execJumpOffset (addr : BitVec 12) (s : State) : Result := goTo (addrOperand addr + regOperand16 s 0) s

end Sys2Proof.Machine
end

