-- ==== Sys2Proof/Machine/Display.lean ====
section
/-! DEFINITION. The display instructions (44_display.md), with the loops of R202 as they stand there. -/

namespace Sys2Proof.Machine

/-- What `draw` carries through its loops: the display, and `hit`. -/
abbrev Canvas := Display × Bool

/-- The body of the inner loop of R202 at sprite column `k`: bit 7 is the leftmost cell. -/
def drawBit (r : Fin 32) (cx : Nat) (b : Byte) (cv : Canvas) (k : Nat) : Canvas :=
  if b.getLsbD (7 - k) then
    (toggleCell cv.1 r (wrapCol (cx + k)), cv.2 || cellAt cv.1 r (wrapCol (cx + k)))
  else cv

/-- The inner loop of R202: one sprite row, at display row `r`. -/
def drawRow (r : Fin 32) (cx : Nat) (b : Byte) (cv : Canvas) : Canvas :=
  (List.range 8).foldl (drawBit r cx b) cv

/-- The outer loop of R202: the sprite's bytes, the first at row `cy`. -/
def drawRows (cx : Nat) : Nat → List Byte → Canvas → Canvas
  | _, [], cv => cv
  | cy, b :: rest, cv => drawRows cx (cy + 1) rest (drawRow (wrapRow cy) cx b cv)

/-- `clear-screen` (R201): `redraw` is set also when the display was dark. -/
def execClearScreen (s : State) : Result := advance ((s.setDisp darkDisplay).setRedraw true)

/-- The state a completed `draw` leaves before `pc` advances: VF last, always written; `I` unchanged (R202). -/
def drawn (x y : RegIdx) (n : Nat) (s : State) : State :=
  let out := drawRows (s.reg x).toNat (s.reg y).toNat (readBytes s.mem s.I.toNat n) (s.disp, false)
  ((s.setDisp out.1).setReg VF (flagByte out.2)).setRedraw true

/-- `draw(x,y,n)` (R202): the coordinates are read before VF is written; with n = 0 nothing is read. -/
def execDraw (x y : RegIdx) (n : Nat) (s : State) : Result :=
  checked (rangeError s.I n) s (advance (drawn x y n s))

end Sys2Proof.Machine
end

