-- ==== Sys2Proof/Machine/IndexMemory.lean ====
section
/-! DEFINITION. The index register and memory (43_index_memory.md). The whole range is checked before anything is read or
written (R58, R180). -/

namespace Sys2Proof.Machine

/-- `set-index(addr)` (R181). -/
def execSetIndex (addr : BitVec 12) (s : State) : Result := advance (s.setI (addrOperand addr))

/-- `add-index(x)` (R182): modulo 65536, no flag. -/
def execAddIndex (x : RegIdx) (s : State) : Result := advance (s.setI (s.I + regOperand16 s x))

/-- `font-address(x)` (R183): the register's whole value, not its low nibble. -/
def execFontAddress (x : RegIdx) (s : State) : Result :=
  advance (s.setI (BitVec.ofNat 16 Config.glyphSize * regOperand16 s x))

/-- `store-bcd(x)` (R184): `I` is unchanged. -/
def execStoreBcd (x : RegIdx) (s : State) : Result :=
  checked (rangeError s.I 3) s
    (advance (s.setMem (writeBytes s.mem s.I.toNat (bcdDigits (s.reg x)))))

/-- `store-registers(x)` (R185): `I` moves by X + 1. -/
def execStoreRegisters (x : RegIdx) (s : State) : Result :=
  checked (rangeError s.I (x.val + 1)) s
    (advance ((s.setMem (writeBytes s.mem s.I.toNat (regsUpTo s x))).setI (s.I + BitVec.ofNat 16 (x.val + 1))))

/-- `load-registers(x)` (R186): `I` moves by X + 1. -/
def execLoadRegisters (x : RegIdx) (s : State) : Result :=
  checked (rangeError s.I (x.val + 1)) s
    (advance ((s.setRegs (regsLoaded s x)).setI (s.I + BitVec.ofNat 16 (x.val + 1))))

end Sys2Proof.Machine
end

