-- ==== Sys2Proof/Machine/KeysTimers.lean ====
section
/-! DEFINITION. The key and timer instructions (45_keys_timers.md). -/

namespace Sys2Proof.Machine

/-- `skip-key-pressed(x)` (R220): the key index is the register's value; above 15 it raises (R226). -/
def execSkipKeyPressed (x : RegIdx) (s : State) : Result :=
  checked (keyError (s.reg x)) s (skipIf (keyDown s (s.reg x)) s)

/-- `skip-key-not-pressed(x)` (R221). -/
def execSkipKeyNotPressed (x : RegIdx) (s : State) : Result :=
  checked (keyError (s.reg x)) s (skipIf (!keyDown s (s.reg x)) s)

/-- `load-delay(x)` (R222). -/
def execLoadDelay (x : RegIdx) (s : State) : Result := advance (s.setReg x s.DT)

/-- `wait-key(x)` (R223): with no key down a complete cycle that changes nothing, `pc` included. -/
def execWaitKey (x : RegIdx) (s : State) : Result :=
  match lowestKey s with
  | some k => advance (s.setReg x (BitVec.ofNat 8 k))
  | none => .next s

/-- `set-delay(x)` (R224). -/
def execSetDelay (x : RegIdx) (s : State) : Result := advance (s.setDT (s.reg x))

/-- `set-sound(x)` (R225): `snd_ended` is not touched. -/
def execSetSound (x : RegIdx) (s : State) : Result := advance (s.setST (s.reg x))

end Sys2Proof.Machine
end

