-- ==== Sys2Proof/Machine/HostOps.lean ====
section
/-! DEFINITION. The host's operations other than the cycle, each with its reply (R255 to R261 of 60_exceptions.md, R290 and
R293 of 70_reset_and_hazards.md). While the machine is halted all but reset and the display read do nothing (R247). -/

namespace Sys2Proof.Machine

/-- reset (construct) with a FONT (R290): every element as R34 says, and a load awaited. The schedule goes on, and so does
the draw counter, so that no draw repeats (entries 3 and 4). -/
def resetOp (font : Vector Byte 80) (s : State) : State :=
  ((State.reset.setMem (writeBytes [] 0 font.toList)).setDraws s.draws).setSchedule s.schedule

/-- load-program (R293), with its answer: success, and the image verbatim from 0x200; or failure, and nothing written.
The model's own record of the load keeps the answer too (entry 5). -/
def loadProgram (image : List Byte) (s : State) : State × Bool :=
  if image.length ≤ Config.maxImage then
    ((s.setMem (writeBytes s.mem Config.progBase image)).setLoad .closed, true)
  else (s.setLoad .failed, false)

/-- The delay timer's half of a tick: decremented if nonzero (R255). -/
def tickDelay (s : State) : State := if s.DT = 0 then s else s.setDT (s.DT - 1)

/-- The sound timer's half of a tick: `snd_ended` is set when it goes from 1 to 0 (R255). -/
def tickSound (s : State) : State :=
  if s.ST = 0 then s
  else if s.ST - 1 = 0 then (s.setST (s.ST - 1)).setSndEnded true
  else s.setST (s.ST - 1)

/-- tick (R255). -/
def tick (s : State) : State := if s.err = none then tickSound (tickDelay s) else s

/-- press(k) (R258). -/
def press (k : KeyIdx) (s : State) : State := if s.err = none then s.setKey k true else s

/-- release(k) (R258). -/
def release (k : KeyIdx) (s : State) : State := if s.err = none then s.setKey k false else s

/-- The byte view of one cell (R27, R204, R259). -/
def cellByte (lit : Bool) : Byte := if lit then 0x01 else 0x00

/-- Display read (R259): 2048 bytes, byte `r * 64 + c` is the cell at row r, column c. It changes nothing. -/
def readDisplay (s : State) : List Byte := s.disp.toList.flatMap (fun row => row.toList.map cellByte)

/-- consume-redraw (R260): the flag is returned and cleared. -/
def consumeRedraw (s : State) : State × Bool := if s.err = none then (s.setRedraw false, s.redraw) else (s, false)

/-- consume-sound-ended (R261): the flag is returned and cleared. -/
def consumeSoundEnded (s : State) : State × Bool :=
  if s.err = none then (s.setSndEnded false, s.sndEnded) else (s, false)

end Sys2Proof.Machine
end

