-- ==== Sys2Proof/Machine/Cycle.lean ====
section
/-! DEFINITION. The cycle operation (R110 to R116 of 40_cycle.md), and one scheduled operation of the host (R262). -/

namespace Sys2Proof.Machine

/-- Decode and dispatch of the fetched word (R112, R113). -/
def decodeAndRun (s : State) : Result :=
  match decodeWord (fetchWord s) with
  | .ok i => exec i s
  | .error _ => raise (.unknownInstruction (fetchWord s)) s

/-- "execute one cycle" (R110): the halt test (R116), the fetch checks (R111), then decode and dispatch. Its reply, the
`err` after the cycle, is `err` of the state it answers. -/
def cycle (s : State) : Result :=
  match s.err with
  | some _ => .next s
  | none => checked (fetchError s.pc) s (decodeAndRun s)

/-- The cycle as the host applies it: it ends the time for loading (R293), and after a failed load there is none, since
"execution must not proceed" (R245, R293; entry 6). -/
def hostCycle (s : State) : Result :=
  match s.load with
  | .awaited => cycle (s.setLoad .closed)
  | .closed => cycle (s.setLoad .closed)
  | .failed => .refused .cycleAfterFailedLoad

/-- load-program as the host applies it: once after a reset, a failed load being none (R263, R293; entry 5). -/
def hostLoad (image : List Byte) (s : State) : Result :=
  match s.load with
  | .awaited => .next (loadProgram image s).1
  | .failed => .next (loadProgram image s).1
  | .closed => .refused .loadWithoutReset

/-- One operation of the host, atomic (R62, R262). The replies of the load, the display read and the two consume operations
are those of Machine/HostOps.lean; a step keeps the state alone (entry 23). -/
def hostStep (op : HostOp) (s : State) : Result :=
  match op with
  | .reset font => .next (resetOp font s)
  | .loadProgram image => hostLoad image s
  | .cycle => hostCycle s
  | .tick => .next (tick s)
  | .press k => .next (press k s)
  | .release k => .next (release k s)
  | .readDisplay => .next s
  | .consumeRedraw => .next (consumeRedraw s).1
  | .consumeSoundEnded => .next (consumeSoundEnded s).1

end Sys2Proof.Machine
end

