-- ==== Sys2Proof/Machine/Step.lean ====
section
/-! DEFINITION. One step: the host's next scheduled operation, a cycle when none is scheduled (R62, R262; entry 4). -/

namespace Sys2Proof.Machine

/-- One atomic operation of the host on the core. -/
def step (s : State) : Host.Outcome State Fault Refusal :=
  match s.schedule with
  | [] => hostCycle s
  | op :: rest => hostStep op (s.setSchedule rest)

/-- Where the next fetch of the state reads: `pc`, or the reset `pc` where `pc` cannot be fetched from (R111). -/
def fetchPc (s : State) : Word := if fetchError s.pc = none then s.pc else BitVec.ofNat 16 Config.progBase

/-- The state with a table word's bytes where the next step fetches: the latch clear, nothing scheduled and the load
done, so that the next step is a cycle that fetches (R110, R111). It stands for the host's load-program (R293; entry 22). -/
def State.withFetchWord (s : State) (nbits w : Nat) : State :=
  let placed := (s.setMem (writeBytes s.mem (fetchPc s).toNat (bytesOfWord (tableWord nbits w)))).setPc (fetchPc s)
  ((placed.setErr none).setSchedule []).setLoad .closed

end Sys2Proof.Machine
end

