-- ==== Sys2Proof/Safety.lean ====
section
/-! DEFINITION. The terms claims are stated in: the parts of the state and frames over them, a safe run, and the
invariant of the machine (R38 of 10_state.md). -/

namespace Sys2Proof

open Machine

/-- The parts of the state, each read through the model's own reads: what a frame speaks of. -/
inductive Part where
  | reg (r : RegIdx)
  | index
  | pc
  | sp
  | slot (k : Fin 16)
  | delay
  | sound
  | key (k : KeyIdx)
  | cell (r : Fin 32) (c : Fin 64)
  | redraw
  | sndEnded
  | err
  | byte (a : Nat)
  | draws
  | schedule
  | load
  deriving DecidableEq, Repr

/-- The part is the same in both states. -/
def Part.same (p : Part) (s t : State) : Prop :=
  match p with
  | .reg r => t.reg r = s.reg r
  | .index => t.I = s.I
  | .pc => t.pc = s.pc
  | .sp => t.sp = s.sp
  | .slot k => t.stack[k.val] = s.stack[k.val]
  | .delay => t.DT = s.DT
  | .sound => t.ST = s.ST
  | .key k => t.key[k.val] = s.key[k.val]
  | .cell r c => cellAt t.disp r c = cellAt s.disp r c
  | .redraw => t.redraw = s.redraw
  | .sndEnded => t.sndEnded = s.sndEnded
  | .err => t.err = s.err
  | .byte a => readByte t.mem a = readByte s.mem a
  | .draws => t.draws = s.draws
  | .schedule => t.schedule = s.schedule
  | .load => t.load = s.load

/-- A frame: from `s` to `t` nothing but the parts in `changed` changes (R10, R115). -/
def Frame (changed : Part → Prop) (s t : State) : Prop := ∀ p, ¬changed p → p.same s t

/-- A frame whose changed parts are listed. -/
def FrameBut (changed : List Part) (s t : State) : Prop := Frame (· ∈ changed) s t

/-- The run is healthy: no error is latched (R30). -/
def Healthy (s : State) : Prop := s.err = none

/-- `pc` can be fetched from: even and not above 0xFFE (R23, R111). -/
def Fetchable (s : State) : Prop := s.pc.toNat ≤ 0xFFE ∧ s.pc.getLsbD 0 = false

/-- A safe run: `k` steps end in a state with no error latched; a latched error stays (R248), so none was on the way
unless a reset came between. -/
def SafeFor (k : Nat) (s : State) : Prop := ∃ t, core.run k s = .next t ∧ Healthy t

/-- What a latched error says of the state it halted (R240, R247): `pc` still holds the address of the instruction that
raised, and the cause can still be read from the state. -/
def ErrorFits (s : State) : Prop :=
  match s.err with
  | none => True
  | some (.unknownInstruction w) => Fetchable s ∧ w = fetchWord s ∧ decodeWord w = .error (.unknownInstruction w)
  | some (.stackOverflow a) => a = s.pc ∧ s.sp.val = 16
  | some (.stackUnderflow a) => a = s.pc ∧ s.sp.val = 0
  | some (.memOutOfRange a) => (a = s.pc.toNat ∧ 0xFFE < a) ∨ (a = max s.I.toNat 0x1000 ∧ Fetchable s)
  | some (.pcMisaligned a) => a = s.pc ∧ a.getLsbD 0 = true ∧ a.toNat ≤ 0xFFE
  | some (.keyIndexOutOfRange v) => (∃ x : RegIdx, s.reg x = v) ∧ 15 < v.toNat

/-- The invariant of every step: memory keeps its canonical form; `pc` is at most 0x10FE (R38); every frame in use holds
an even address not above 0x1000, the address after some `call` (R130); a latched error fits the state, and it came
from a cycle, so that the time for loading is over (R293). -/
structure StateInv (s : State) : Prop where
  mem : memWf s.mem
  pc : s.pc.toNat ≤ 0x10FE
  frames : ∀ k : Fin 16, k.val < s.sp.val → s.stack[k.val].getLsbD 0 = false ∧ s.stack[k.val].toNat ≤ 0x1000
  error : ErrorFits s
  halted : ¬Healthy s → s.load = .closed

end Sys2Proof
end

