-- ==== Sys2Proof/Certificates/Slice0/Obligations.lean ====
section
/-! DEFINITION. The statements for the provers, each with the rules of spec/ it formalises. Basis, tier and quotation stand
in OBLIGATIONS.json. In every statement the encoding clause writes the word out by its fields, first nibble first; the numbers in it are
the spec's adopted ones (D1, log entry 8). -/

open Sys2Proof Sys2Proof.Machine

/-! ## Terms of the statements -/

/-- Sprite byte `j`, column `k` of a `draw` at `(cx, cy)` lies on the cell at row `r`, column `c`, and its bit is 1
(R200, R202): rows and columns wrap, bit 7 is the leftmost. -/
def Sys2Proof.spriteCovers (s : State) (cx cy n : Nat) (r : Fin 32) (c : Fin 64) : Prop :=
  ∃ j k : Nat, j < n ∧ k < 8 ∧ r.val = (cy + j) % 32 ∧ c.val = (cx + k) % 64 ∧
    (readByte s.mem (s.I.toNat + j)).getLsbD (7 - k) = true

/-- Some cell that is lit is covered by the sprite: a collision (R202). -/
def Sys2Proof.spriteHits (s : State) (cx cy n : Nat) : Prop :=
  ∃ r c, spriteCovers s cx cy n r c ∧ cellAt s.disp r c = true

/-- Where `pc` goes when an instruction does not raise: the table of R114, with the targets of R130 to R132 and R137. -/
def Sys2Proof.pcAfter (i : Instr) (s : State) : Word :=
  match i with
  | .ret => s.stack.toList.getD (s.sp.val - 1) 0
  | .jump addr | .call addr => addr.setWidth 16
  | .jumpOffset addr => addr.setWidth 16 + (s.reg 0).setWidth 16
  | .skipEqImm x kk => if s.reg x = kk then s.pc + 4 else s.pc + 2
  | .skipNeImm x kk => if s.reg x ≠ kk then s.pc + 4 else s.pc + 2
  | .skipEqReg x y => if s.reg x = s.reg y then s.pc + 4 else s.pc + 2
  | .skipNeReg x y => if s.reg x ≠ s.reg y then s.pc + 4 else s.pc + 2
  | .skipKeyPressed x => if s.key.toList.getD (s.reg x).toNat false = true then s.pc + 4 else s.pc + 2
  | .skipKeyNotPressed x => if s.key.toList.getD (s.reg x).toNat false = false then s.pc + 4 else s.pc + 2
  | .waitKey _ => if ∃ k : KeyIdx, s.key[k.val] = true then s.pc + 2 else s.pc
  | .clearScreen | .loadImm _ _ | .addImm _ _ | .loadReg _ _ | .orReg _ _ | .andReg _ _ | .xorReg _ _ | .addReg _ _
  | .subReg _ _ | .shiftRight _ | .subnReg _ _ | .shiftLeft _ | .setIndex _ | .random _ _ | .draw _ _ _
  | .loadDelay _ | .setDelay _ | .setSound _ | .addIndex _ | .fontAddress _ | .storeBcd _ | .storeRegisters _
  | .loadRegisters _ => s.pc + 2

/-- The parts an instruction may write when it does not raise: the "instructions that write" column of R37, with the
bytes of R65 and the flag writes of R21. -/
def Sys2Proof.writes (i : Instr) (s : State) (p : Part) : Prop :=
  match i with
  | .clearScreen => p = .pc ∨ p = .redraw ∨ ∃ r c, p = .cell r c
  | .draw _ _ _ => p = .pc ∨ p = .redraw ∨ p = .reg VF ∨ ∃ r c, p = .cell r c
  | .ret => p = .pc ∨ p = .sp
  | .call _ => p = .pc ∨ p = .sp ∨ ∃ k : Fin 16, k.val = s.sp.val ∧ p = .slot k
  | .jump _ | .jumpOffset _ | .skipEqImm _ _ | .skipNeImm _ _ | .skipEqReg _ _ | .skipNeReg _ _
  | .skipKeyPressed _ | .skipKeyNotPressed _ => p = .pc
  | .loadImm x _ | .addImm x _ | .loadReg x _ | .orReg x _ | .andReg x _ | .xorReg x _ | .loadDelay x | .waitKey x =>
    p = .pc ∨ p = .reg x
  | .addReg x _ | .subReg x _ | .subnReg x _ | .shiftRight x | .shiftLeft x => p = .pc ∨ p = .reg x ∨ p = .reg VF
  | .random x _ => p = .pc ∨ p = .reg x ∨ p = .draws
  | .setIndex _ | .addIndex _ | .fontAddress _ => p = .pc ∨ p = .index
  | .setDelay _ => p = .pc ∨ p = .delay
  | .setSound _ => p = .pc ∨ p = .sound
  | .storeBcd _ => p = .pc ∨ ∃ a, s.I.toNat ≤ a ∧ a < s.I.toNat + 3 ∧ p = .byte a
  | .storeRegisters x => p = .pc ∨ p = .index ∨ ∃ a, s.I.toNat ≤ a ∧ a < s.I.toNat + (x.val + 1) ∧ p = .byte a
  | .loadRegisters x => p = .pc ∨ p = .index ∨ ∃ r : RegIdx, r ≤ x ∧ p = .reg r

/-- The error an instruction may raise, with the condition and the payload (R240, R246). -/
def Sys2Proof.mayRaise (i : Instr) (s : State) (e : ErrorValue) : Prop :=
  match i with
  | .call _ => s.sp.val = 16 ∧ e = .stackOverflow s.pc
  | .ret => s.sp.val = 0 ∧ e = .stackUnderflow s.pc
  | .draw _ _ n => 1 ≤ n ∧ s.I.toNat + n > 4096 ∧ e = .memOutOfRange (max s.I.toNat 0x1000)
  | .storeBcd _ => s.I.toNat + 3 > 4096 ∧ e = .memOutOfRange (max s.I.toNat 0x1000)
  | .storeRegisters x | .loadRegisters x =>
    s.I.toNat + x.val + 1 > 4096 ∧ e = .memOutOfRange (max s.I.toNat 0x1000)
  | .skipKeyPressed x | .skipKeyNotPressed x => (s.reg x).toNat > 15 ∧ e = .keyIndexOutOfRange (s.reg x)
  | .clearScreen | .jump _ | .skipEqImm _ _ | .skipNeImm _ _ | .skipEqReg _ _ | .loadImm _ _ | .addImm _ _
  | .loadReg _ _ | .orReg _ _ | .andReg _ _ | .xorReg _ _ | .addReg _ _ | .subReg _ _ | .shiftRight _ | .subnReg _ _
  | .shiftLeft _ | .skipNeReg _ _ | .setIndex _ | .jumpOffset _ | .random _ _ | .loadDelay _ | .waitKey _
  | .setDelay _ | .setSound _ | .addIndex _ | .fontAddress _ => False

/-! ## Encoding -/

/-- Decoding what the encoder assembled gives the instruction back, every operand at every value, and the bytes after it
untouched (30_encoding.md section 4, R94). The opcode numbers are the spec's adopted ones (D1, log entry 8). -/
def Obligations.DecodeInvertsEncode : Prop :=
  ∀ (i : Instr) (rest : List Byte), i.wellFormed = true →
    decodeWord (encode i) = .ok i ∧ decodeBytes (encodeBytes i ++ rest) = .ok (i, rest)

/-- Every word that decodes is the assembled word of its instruction, but for the ignored bits: 3:0 of the two register
skips, 7:4 of the two shifts (R87; log entry 8 for the numbers). So no two words differ in a used bit and decode alike. -/
def Obligations.DecodedWordsReassemble : Prop :=
  ∀ (w : Word) (i : Instr), decodeWord w = .ok i →
    i.wellFormed = true ∧
    match i with
    | .skipEqReg _ _ | .skipNeReg _ _ => encode i = w &&& 0xFFF0#16
    | .shiftRight _ | .shiftLeft _ => encode i = w &&& 0xFF0F#16
    | _ => encode i = w

/-- A word decodes exactly when it selects a row of the opcode map, and no word selects two rows (R86, R95; log entry 8
for the numbers). -/
def Obligations.DecoderAgreesWithOpcodeMap : Prop :=
  (∀ w : Word, (∃ i, decodeWord w = .ok i) ↔ ∃ row ∈ opcodeTable, w &&& row.mask = row.pattern) ∧
  ∀ (w : Word) (a b : OpcodeRow), a ∈ opcodeTable → b ∈ opcodeTable →
    w &&& a.mask = a.pattern → w &&& b.mask = b.pattern → a = b

/-- The unknown words are exactly the four sets of R90's table, the whole-word match of family 0x0 included (D2, log
entry 12; log entry 8 for the numbers). -/
def Obligations.UnknownWordsAreThoseListed : Prop :=
  ∀ w : Word, decodeWord w = .error (.unknownInstruction w) ↔
    (w.extractLsb' 12 4 = 0x0#4 ∧ w ≠ 0x00E0#16 ∧ w ≠ 0x00EE#16) ∨
    (w.extractLsb' 12 4 = 0x8#4 ∧ w.extractLsb' 0 4 ∈ [0x8#4, 0x9#4, 0xA#4, 0xB#4, 0xC#4, 0xD#4, 0xF#4]) ∨
    (w.extractLsb' 12 4 = 0xE#4 ∧ w.extractLsb' 0 8 ∉ [0x9E#8, 0xA1#8]) ∨
    (w.extractLsb' 12 4 = 0xF#4 ∧
      w.extractLsb' 0 8 ∉ [0x07#8, 0x0A#8, 0x15#8, 0x18#8, 0x1E#8, 0x29#8, 0x33#8, 0x55#8, 0x65#8])

/-- One word of each format, written out from R86 and R94, decodes to the instruction it stands for (log entry 8 for the
numbers). -/
def Obligations.PublishedWordsDecode : Prop :=
  decodeWord 0b0000000011100000#16 = .ok .clearScreen ∧
  decodeWord 0b0010001000001010#16 = .ok (.call 0x20A) ∧
  decodeWord 0b0011000100000000#16 = .ok (.skipEqImm 1 0x00) ∧
  decodeWord 0b1000000000010100#16 = .ok (.addReg 0 1) ∧
  decodeWord 0b1000111100010111#16 = .ok (.subnReg 15 1) ∧
  decodeWord 0b1101000000011111#16 = .ok (.draw 0 1 15) ∧
  decodeWord 0b1110010110011110#16 = .ok (.skipKeyPressed 5) ∧
  decodeWord 0b1111001001010101#16 = .ok (.storeRegisters 2) ∧
  decodeBytes [0b10100011#8, 0b00000000#8, 0x12#8] = .ok (.setIndex 0x300, [0x12#8])

/-! ## The cycle -/

/-- A step runs the decoded instruction: in a healthy state with a fetchable `pc` whose two bytes decode, the step is
that instruction's rule, with the time for loading over and, for a scheduled cycle, that entry off the host's list; there
is no cycle after a failed load (R110 to R113, R293; the fetch checks are the spec's decisions D8 and D9, the list and the
load's record are log entries 4 to 6). -/
def Obligations.StepRunsDecodedInstruction : Prop :=
  ∀ (s : State) (i : Instr), Healthy s → Fetchable s → s.load ≠ .failed →
    decodeBytes [readByte s.mem s.pc.toNat, readByte s.mem (s.pc.toNat + 1)] = .ok (i, []) →
    i.wellFormed = true ∧
    (s.schedule = [] → step s = exec i (s.setLoad .closed)) ∧
    (∀ rest, s.schedule = .cycle :: rest → step s = exec i ((s.setSchedule rest).setLoad .closed)) ∧
    (s.load = .closed → s.setLoad .closed = s)

/-- Dispatch: a fetched word that selects a row of the opcode map runs the instruction of that row with the decoded fields,
and a word that selects none raises UnknownInstruction, leaving all state but `err` unchanged (R113; the map's numbers are
log entry 8). -/
def Obligations.DispatchRunsOrRaises : Prop :=
  ∀ s : State, Healthy s → Fetchable s →
    (∀ row ∈ opcodeTable, fetchWord s &&& row.mask = row.pattern →
      ∃ i, decodeWord (fetchWord s) = .ok i ∧ encode i &&& row.mask = row.pattern ∧ cycle s = exec i s) ∧
    ((¬∃ row ∈ opcodeTable, fetchWord s &&& row.mask = row.pattern) →
      cycle s = .next (s.setErr (some (.unknownInstruction (fetchWord s)))))

/-- A placed table word runs at the very next step, from any state (the model's placing operation, log entry 22). -/
def Obligations.PlacedWordRunsNext : Prop :=
  ∀ (s : State) (w : Nat) (i : Instr), decodeTableWord 16 w = some i →
    step (s.withFetchWord 16 w) = exec i (s.withFetchWord 16 w)

/-- The fetch checks in their order: out of range first, then odd; nothing is fetched and only `err` changes (R55, R56,
R111, R246; the spec's decisions D8, D9, D13, log entry 14). -/
def Obligations.FetchChecksRangeThenAlignment : Prop :=
  ∀ s : State, Healthy s →
    (0xFFE < s.pc.toNat → cycle s = .next (s.setErr (some (.memOutOfRange s.pc.toNat)))) ∧
    (s.pc.toNat ≤ 0xFFE → s.pc.getLsbD 0 = true → cycle s = .next (s.setErr (some (.pcMisaligned s.pc))))

/-- A halted machine is frozen: over any number of steps in which neither a reset nor a load is scheduled nothing but the
host's list changes, and the consume operations answer 0; a load there has no move before a reset (R116, R247, R248, R263;
the spec's decision D11, log entries 1 and 5). The load's record is closed in every halted state that StepKeepsInv's
invariant admits. -/
def Obligations.HaltedMachineStaysFrozen : Prop :=
  ∀ (k : Nat) (s : State) (e : ErrorValue), s.err = some e → s.load = .closed →
    (∀ op ∈ s.schedule, (∀ font, op ≠ .reset font) ∧ ∀ image, op ≠ .loadProgram image) →
    (consumeRedraw s = (s, false) ∧ consumeSoundEnded s = (s, false)) ∧
    core.run k s = .next (s.setSchedule (s.schedule.drop k))

/-- A cycle that raises changes `err` alone, so every error is precise (R10, R247; the spec's decision D10, log entry 1). -/
def Obligations.RaisingCycleChangesOnlyErr : Prop :=
  ∀ (s t : State) (e : ErrorValue), Healthy s → cycle s = .next t → t.err = some e → t = s.setErr (some e)

/-- No cycle and no instruction ever ends in a fault or a refusal: every stop of the spec is an error value (R240; log
entry 1). -/
def Obligations.EveryInstructionAnswersNext : Prop :=
  (∀ (i : Instr) (s : State), ∃ t, exec i s = .next t) ∧ ∀ s : State, ∃ t, cycle s = .next t

/-! ## The invariant -/

/-- Every step, whatever the host schedules, keeps the invariant: canonical memory, `pc` at most 0x10FE, even return
addresses not above 0x1000 in every frame in use, an error latch that fits the state, and no load possible in a halted
state before a reset (R38, R240, R247, R263). -/
def Obligations.StepKeepsInv : Prop := ∀ s t : State, StateInv s → step s = .next t → StateInv t

/-- The invariant holds after reset (R34, R38). -/
def Obligations.ResetHasInv : Prop := StateInv State.reset

/-- Two memories in canonical form that read alike everywhere are the same data (log entry 10 for the form). -/
def Obligations.EqualReadsEqualMemories : Prop :=
  ∀ m m' : Memory, memWf m → memWf m' → (∀ a, readByte m a = readByte m' a) → m = m'

/-! ## Control transfer -/

/-- `jump(addr)`: `pc` becomes the literal, with no check of it, and nothing else changes (R131). -/
def Obligations.JumpGoesToLiteral : Prop :=
  ∀ (addr : BitVec 12) (s : State),
    decodeWord (encodeNNN 0x1#4 addr) = .ok (.jump addr) ∧
    ∃ t, exec (.jump addr) s = .next t ∧ t.pc.toNat = addr.toNat ∧ FrameBut [.pc] s t

/-- `jump-offset(addr)`: the literal plus `x[0]`, neither wrapped nor masked (R137). -/
def Obligations.JumpOffsetAddsRegisterZero : Prop :=
  ∀ (addr : BitVec 12) (s : State),
    decodeWord (encodeNNN 0xB#4 addr) = .ok (.jumpOffset addr) ∧
    ∃ t, exec (.jumpOffset addr) s = .next t ∧ t.pc.toNat = addr.toNat + (s.reg 0).toNat ∧ FrameBut [.pc] s t

/-- `call(addr)` with a free frame pushes the address of the next instruction and jumps; with 16 frames in use it raises
StackOverflow and changes nothing else (R132; the pushed value and the policy are the spec's D6 and D7, log entry 13). -/
def Obligations.CallPushesReturnAddress : Prop :=
  ∀ (addr : BitVec 12) (s : State),
    (∀ k : Fin 16, s.sp.val = k.val →
      ∃ t, exec (.call addr) s = .next t ∧ t.pc.toNat = addr.toNat ∧ t.stack[k.val] = s.pc + 2 ∧
        t.sp.val = k.val + 1 ∧ FrameBut [.pc, .sp, .slot k] s t) ∧
    (s.sp.val = 16 → exec (.call addr) s = .next (s.setErr (some (.stackOverflow s.pc))))

/-- `return` with a frame in use takes `pc` from the top frame and frees it, the slot keeping its bits; with none it
raises StackUnderflow and changes nothing else (R130; the policy is the spec's D6 and D7, log entry 13). -/
def Obligations.ReturnPopsTopFrame : Prop :=
  ∀ s : State,
    (∀ k : Fin 16, s.sp.val = k.val + 1 →
      ∃ t, exec .ret s = .next t ∧ t.pc = s.stack[k.val] ∧ t.sp.val = k.val ∧ FrameBut [.pc, .sp] s t) ∧
    (s.sp.val = 0 → exec .ret s = .next (s.setErr (some (.stackUnderflow s.pc))))

/-- A `call` followed at once by `return` comes back to the instruction after the call with `sp` restored and nothing else
changed but a slot above `sp` (R138, derived there). -/
def Obligations.CallThenReturnComesBack : Prop :=
  ∀ (addr : BitVec 12) (s : State) (k : Fin 16), s.sp.val = k.val →
    ∃ t u, exec (.call addr) s = .next t ∧ exec .ret t = .next u ∧ u.pc = s.pc + 2 ∧ FrameBut [.pc, .slot k] s u

/-- The immediate skips: `pc` moves by 4 when the test of all 8 bits holds, else by 2; no register, VF included, is
written (R133, R134). -/
def Obligations.ImmediateSkipsCompare : Prop :=
  ∀ (x : RegIdx) (kk : Byte) (s : State),
    decodeWord (encodeXKK 0x3#4 x kk) = .ok (.skipEqImm x kk) ∧
    decodeWord (encodeXKK 0x4#4 x kk) = .ok (.skipNeImm x kk) ∧
    (∃ t, exec (.skipEqImm x kk) s = .next t ∧ FrameBut [.pc] s t ∧
      ((s.reg x).toNat = kk.toNat → t.pc = s.pc + 4) ∧ ((s.reg x).toNat ≠ kk.toNat → t.pc = s.pc + 2)) ∧
    ∃ t, exec (.skipNeImm x kk) s = .next t ∧ FrameBut [.pc] s t ∧
      ((s.reg x).toNat ≠ kk.toNat → t.pc = s.pc + 4) ∧ ((s.reg x).toNat = kk.toNat → t.pc = s.pc + 2)

/-- The register skips, the low nibble of the word ignored; the equal skip on one register always skips, the other never
(R135, R136). -/
def Obligations.RegisterSkipsCompare : Prop :=
  ∀ (x y : RegIdx) (n : BitVec 4) (s : State),
    decodeWord (encodeXYN 0x5#4 x y n) = .ok (.skipEqReg x y) ∧
    decodeWord (encodeXYN 0x9#4 x y n) = .ok (.skipNeReg x y) ∧
    (∃ t, exec (.skipEqReg x y) s = .next t ∧ FrameBut [.pc] s t ∧
      ((s.reg x).toNat = (s.reg y).toNat → t.pc = s.pc + 4) ∧
      ((s.reg x).toNat ≠ (s.reg y).toNat → t.pc = s.pc + 2) ∧ (x = y → t.pc = s.pc + 4)) ∧
    ∃ t, exec (.skipNeReg x y) s = .next t ∧ FrameBut [.pc] s t ∧
      ((s.reg x).toNat ≠ (s.reg y).toNat → t.pc = s.pc + 4) ∧
      ((s.reg x).toNat = (s.reg y).toNat → t.pc = s.pc + 2) ∧ (x = y → t.pc = s.pc + 2)

/-! ## Register arithmetic and logic -/

/-- `load-imm` writes the literal; `add-imm` adds it modulo 256 and reports no carry: VF changes only as the destination
(R152, R153). -/
def Obligations.ImmediatesLoadAndAdd : Prop :=
  ∀ (x : RegIdx) (kk : Byte) (s : State),
    decodeWord (encodeXKK 0x6#4 x kk) = .ok (.loadImm x kk) ∧
    decodeWord (encodeXKK 0x7#4 x kk) = .ok (.addImm x kk) ∧
    (∃ t, exec (.loadImm x kk) s = .next t ∧ t.reg x = kk ∧ t.pc = s.pc + 2 ∧ FrameBut [.pc, .reg x] s t) ∧
    ∃ t, exec (.addImm x kk) s = .next t ∧ (t.reg x).toNat = ((s.reg x).toNat + kk.toNat) % 256 ∧
      t.pc = s.pc + 2 ∧ FrameBut [.pc, .reg x] s t

/-- `load-reg` copies `x[Y]`; `or`, `and`, `xor` work bit by bit; VF changes only as the destination (R154 to R157; that
load-reg is a plain copy follows the spec's C8, that VF is left alone its D27, log entry 21). -/
def Obligations.CopyAndBitwiseLeaveFlag : Prop :=
  ∀ (x y : RegIdx) (s : State),
    (∃ t, exec (.loadReg x y) s = .next t ∧ t.reg x = s.reg y ∧ t.pc = s.pc + 2 ∧ FrameBut [.pc, .reg x] s t) ∧
    (∃ t, exec (.orReg x y) s = .next t ∧ t.pc = s.pc + 2 ∧ FrameBut [.pc, .reg x] s t ∧
      ∀ b < 8, (t.reg x).getLsbD b = ((s.reg x).getLsbD b || (s.reg y).getLsbD b)) ∧
    (∃ t, exec (.andReg x y) s = .next t ∧ t.pc = s.pc + 2 ∧ FrameBut [.pc, .reg x] s t ∧
      ∀ b < 8, (t.reg x).getLsbD b = ((s.reg x).getLsbD b && (s.reg y).getLsbD b)) ∧
    ∃ t, exec (.xorReg x y) s = .next t ∧ t.pc = s.pc + 2 ∧ FrameBut [.pc, .reg x] s t ∧
      ∀ b < 8, (t.reg x).getLsbD b = ((s.reg x).getLsbD b ^^ (s.reg y).getLsbD b)

/-- `add-reg`: the sum modulo 256 in `x[X]` and the carry in VF, both from the old operands; with X = 0xF the carry stays
(R158). -/
def Obligations.AddRegSumAndCarry : Prop :=
  ∀ (x y : RegIdx) (s : State),
    decodeWord (encodeXYN 0x8#4 x y 0x4#4) = .ok (.addReg x y) ∧
    ∃ t, exec (.addReg x y) s = .next t ∧
      (x ≠ VF → (t.reg x).toNat = ((s.reg x).toNat + (s.reg y).toNat) % 256) ∧
      ((s.reg x).toNat + (s.reg y).toNat > 255 → t.reg VF = 0x01) ∧
      ((s.reg x).toNat + (s.reg y).toNat ≤ 255 → t.reg VF = 0x00) ∧
      t.pc = s.pc + 2 ∧ FrameBut [.pc, .reg x, .reg VF] s t

/-- `sub-reg` and `subn-reg`: the difference modulo 256 and the not-borrow in VF, 1 on equal operands; with X = 0xF the
flag stays (R159, R161; equality is C3, the order of writes for these two the spec's D16, log entry 16). -/
def Obligations.SubtractionsAndNotBorrow : Prop :=
  ∀ (x y : RegIdx) (s : State),
    (∃ t, exec (.subReg x y) s = .next t ∧
      (x ≠ VF → (t.reg x).toNat = (256 + (s.reg x).toNat - (s.reg y).toNat) % 256) ∧
      ((s.reg x).toNat ≥ (s.reg y).toNat → t.reg VF = 0x01) ∧
      ((s.reg x).toNat < (s.reg y).toNat → t.reg VF = 0x00) ∧
      t.pc = s.pc + 2 ∧ FrameBut [.pc, .reg x, .reg VF] s t) ∧
    ∃ t, exec (.subnReg x y) s = .next t ∧
      (x ≠ VF → (t.reg x).toNat = (256 + (s.reg y).toNat - (s.reg x).toNat) % 256) ∧
      ((s.reg y).toNat ≥ (s.reg x).toNat → t.reg VF = 0x01) ∧
      ((s.reg y).toNat < (s.reg x).toNat → t.reg VF = 0x00) ∧
      t.pc = s.pc + 2 ∧ FrameBut [.pc, .reg x, .reg VF] s t

/-- The shifts: `x[X]` itself by one place, logically, the Y field of the word ignored, the lost bit in VF; with X = 0xF
the lost bit stays (R160, R162; the ignored Y field is the spec's D27, log entry 21). -/
def Obligations.ShiftsKeepLostBit : Prop :=
  ∀ (x y : RegIdx) (s : State),
    decodeWord (encodeXYN 0x8#4 x y 0x6#4) = .ok (.shiftRight x) ∧
    decodeWord (encodeXYN 0x8#4 x y 0xE#4) = .ok (.shiftLeft x) ∧
    (∃ t, exec (.shiftRight x) s = .next t ∧ (x ≠ VF → (t.reg x).toNat = (s.reg x).toNat / 2) ∧
      (t.reg VF).toNat = (s.reg x).toNat % 2 ∧ t.pc = s.pc + 2 ∧ FrameBut [.pc, .reg x, .reg VF] s t) ∧
    ∃ t, exec (.shiftLeft x) s = .next t ∧ (x ≠ VF → (t.reg x).toNat = 2 * (s.reg x).toNat % 256) ∧
      (t.reg VF).toNat = (s.reg x).toNat / 128 ∧ t.pc = s.pc + 2 ∧ FrameBut [.pc, .reg x, .reg VF] s t

/-- `random`: the free byte masked by the literal, whatever the byte is, and the next execution draws another; VF changes
only as the destination (R163; the draw is the spec's D21, log entry 3). -/
def Obligations.RandomMasksFreeByte : Prop :=
  ∀ (x : RegIdx) (kk : Byte) (s : State),
    ∃ t, exec (.random x kk) s = .next t ∧ t.reg x = Config.rnd s.draws &&& kk ∧ (kk = 0 → t.reg x = 0) ∧
      s.draws < t.draws ∧ t.pc = s.pc + 2 ∧ FrameBut [.pc, .reg x, .draws] s t

/-! ## Index and memory -/

/-- `set-index` writes the literal to `I`, which is then inside memory (R181). -/
def Obligations.SetIndexWritesLiteral : Prop :=
  ∀ (addr : BitVec 12) (s : State),
    decodeWord (encodeNNN 0xA#4 addr) = .ok (.setIndex addr) ∧
    ∃ t, exec (.setIndex addr) s = .next t ∧ t.I.toNat = addr.toNat ∧ t.I.toNat ≤ 0xFFF ∧ t.pc = s.pc + 2 ∧
      FrameBut [.pc, .index] s t

/-- `add-index` adds modulo 65536 and writes no flag; `font-address` is 5 times the whole register (R182, R183; the wrap
is the spec's D17, no mask its D18, log entry 17). -/
def Obligations.IndexArithmetic : Prop :=
  ∀ (x : RegIdx) (s : State),
    (∃ t, exec (.addIndex x) s = .next t ∧ t.I.toNat = (s.I.toNat + (s.reg x).toNat) % 65536 ∧ t.pc = s.pc + 2 ∧
      FrameBut [.pc, .index] s t) ∧
    ∃ t, exec (.fontAddress x) s = .next t ∧ t.I.toNat = 5 * (s.reg x).toNat ∧ t.pc = s.pc + 2 ∧
      FrameBut [.pc, .index] s t

/-- `store-bcd` with its three bytes in range writes the hundreds, tens and ones at `I`, `I + 1`, `I + 2` and nothing
else, `I` included; out of range it raises and writes nothing (R184). -/
def Obligations.StoreBcdWritesDigits : Prop :=
  ∀ (x : RegIdx) (s : State),
    decodeWord (encodeXKK 0xF#4 x 0x33#8) = .ok (.storeBcd x) ∧
    (s.I.toNat + 2 ≤ 0xFFF →
      ∃ t, exec (.storeBcd x) s = .next t ∧ t.pc = s.pc + 2 ∧
        (readByte t.mem s.I.toNat).toNat = (s.reg x).toNat / 100 ∧
        (readByte t.mem (s.I.toNat + 1)).toNat = (s.reg x).toNat / 10 % 10 ∧
        (readByte t.mem (s.I.toNat + 2)).toNat = (s.reg x).toNat % 10 ∧
        FrameBut [.pc, .byte s.I.toNat, .byte (s.I.toNat + 1), .byte (s.I.toNat + 2)] s t) ∧
    (s.I.toNat + 2 > 0xFFF →
      exec (.storeBcd x) s = .next (s.setErr (some (.memOutOfRange (max s.I.toNat 0x1000)))))

/-- `store-registers` in range copies `x[0]` to `x[X]` to ascending addresses from the old `I` and moves `I` by X + 1; out
of range it raises and changes nothing else (R185). -/
def Obligations.StoreRegistersCopiesOut : Prop :=
  ∀ (x : RegIdx) (s : State),
    decodeWord (encodeXKK 0xF#4 x 0x55#8) = .ok (.storeRegisters x) ∧
    (s.I.toNat + x.val ≤ 0xFFF →
      ∃ t, exec (.storeRegisters x) s = .next t ∧ t.pc = s.pc + 2 ∧ t.I.toNat = s.I.toNat + x.val + 1 ∧
        (∀ i : RegIdx, i ≤ x → readByte t.mem (s.I.toNat + i.val) = s.reg i) ∧
        Frame (fun p => p = .pc ∨ p = .index ∨ ∃ a, s.I.toNat ≤ a ∧ a ≤ s.I.toNat + x.val ∧ p = .byte a) s t) ∧
    (s.I.toNat + x.val > 0xFFF →
      exec (.storeRegisters x) s = .next (s.setErr (some (.memOutOfRange (max s.I.toNat 0x1000)))))

/-- `load-registers` in range loads `x[0]` to `x[X]` from ascending addresses and moves `I` by X + 1, the higher registers
and memory unchanged; out of range it raises and changes nothing else (R186). -/
def Obligations.LoadRegistersCopiesIn : Prop :=
  ∀ (x : RegIdx) (s : State),
    decodeWord (encodeXKK 0xF#4 x 0x65#8) = .ok (.loadRegisters x) ∧
    (s.I.toNat + x.val ≤ 0xFFF →
      ∃ t, exec (.loadRegisters x) s = .next t ∧ t.pc = s.pc + 2 ∧ t.I.toNat = s.I.toNat + x.val + 1 ∧
        (∀ i : RegIdx, i ≤ x → t.reg i = readByte s.mem (s.I.toNat + i.val)) ∧
        Frame (fun p => p = .pc ∨ p = .index ∨ ∃ i : RegIdx, i ≤ x ∧ p = .reg i) s t) ∧
    (s.I.toNat + x.val > 0xFFF →
      exec (.loadRegisters x) s = .next (s.setErr (some (.memOutOfRange (max s.I.toNat 0x1000)))))

/-- Stored registers come back: after `store-registers`, once `I` is set back and whatever the registers then hold,
`load-registers` restores all of `x[0]` to `x[X]`, and `I` ends X + 1 higher (R187, derived there). -/
def Obligations.StoreThenLoadRestores : Prop :=
  ∀ (x : RegIdx) (s : State) (r : Vector Byte 16), s.I.toNat + x.val ≤ 0xFFF →
    ∃ t u, exec (.storeRegisters x) s = .next t ∧ exec (.loadRegisters x) ((t.setRegs r).setI s.I) = .next u ∧
      (∀ i : RegIdx, i ≤ x → u.reg i = s.reg i) ∧ u.I = t.I ∧ u.I.toNat = s.I.toNat + x.val + 1

/-- A store reaches the very next fetch: registers stored over the instruction that follows are what the next cycle
fetches (R64, derived there). -/
def Obligations.StoreSeenByNextFetch : Prop :=
  ∀ (x : RegIdx) (s : State), 1 ≤ x.val → s.I = s.pc + 2 → s.I.toNat + x.val ≤ 0xFFF →
    ∃ t, exec (.storeRegisters x) s = .next t ∧ t.pc = s.I ∧ fetchWord t = s.reg 0 ++ s.reg 1

/-! ## The display -/

/-- `clear-screen` darkens all 2048 cells and sets `redraw`, VF untouched (R201). -/
def Obligations.ClearScreenDarkens : Prop :=
  ∀ s : State, decodeWord 0b0000000011100000#16 = .ok .clearScreen ∧
    ∃ t, exec .clearScreen s = .next t ∧ (∀ r c, cellAt t.disp r c = false) ∧ t.redraw = true ∧ t.pc = s.pc + 2 ∧
      Frame (fun p => p = .pc ∨ p = .redraw ∨ ∃ r c, p = .cell r c) s t

/-- `draw` in closed form: a covered cell is toggled, every other cell kept; VF is 1 exactly when a lit cell was covered;
coordinates are the old registers (VF too), both axes wrap per cell, no row is drawn for n = 0 (R202; geometry, order and
n = 0 are the spec's D16, D19, D20, log entry 18). -/
def Obligations.DrawTogglesCoveredCells : Prop :=
  ∀ (x y : RegIdx) (n : Nat) (s : State), n < 16 → (n = 0 ∨ s.I.toNat + n ≤ 4096) →
    ∃ t, exec (.draw x y n) s = .next t ∧
      (∀ r c, spriteCovers s (s.reg x).toNat (s.reg y).toNat n r c → cellAt t.disp r c = !cellAt s.disp r c) ∧
      (∀ r c, ¬spriteCovers s (s.reg x).toNat (s.reg y).toNat n r c → cellAt t.disp r c = cellAt s.disp r c) ∧
      (spriteHits s (s.reg x).toNat (s.reg y).toNat n → t.reg VF = 0x01) ∧
      (¬spriteHits s (s.reg x).toNat (s.reg y).toNat n → t.reg VF = 0x00) ∧
      t.redraw = true ∧ t.pc = s.pc + 2 ∧
      Frame (fun p => p = .pc ∨ p = .redraw ∨ p = .reg VF ∨ ∃ r c, p = .cell r c) s t

/-- `draw` with a sprite byte beyond 0xFFF raises and draws nothing; with n = 0 it never raises, clears VF and sets
`redraw` (R57, R202; the spec's D10 and D20, log entries 1 and 18). -/
def Obligations.DrawChecksSpriteRange : Prop :=
  ∀ (x y : RegIdx) (n : Nat) (s : State),
    (1 ≤ n → n < 16 → s.I.toNat + n > 4096 →
      exec (.draw x y n) s = .next (s.setErr (some (.memOutOfRange (max s.I.toNat 0x1000))))) ∧
    ∃ t, exec (.draw x y 0) s = .next t ∧ t.disp = s.disp ∧ t.reg VF = 0x00 ∧ t.redraw = true ∧ t.pc = s.pc + 2

/-- Drawing the same sprite twice at the same place restores the display; the second draw reports a collision exactly
when the sprite has a 1 bit on a cell that was dark (R203, derived there). -/
def Obligations.DoubleDrawRestores : Prop :=
  ∀ (x y : RegIdx) (n : Nat) (s : State), n < 16 → (n = 0 ∨ s.I.toNat + n ≤ 4096) →
    ∃ t u, exec (.draw x y n) s = .next t ∧ exec (.draw x y n) (t.setReg VF (s.reg VF)) = .next u ∧
      (∀ r c, cellAt u.disp r c = cellAt s.disp r c) ∧
      (u.reg VF = 0x01 ↔
        ∃ r c, spriteCovers s (s.reg x).toNat (s.reg y).toNat n r c ∧ cellAt s.disp r c = false)

/-! ## Keys and timers -/

/-- The key skips test the key the register's VALUE names, 0 to 15; above 15 they raise and change nothing else (R220,
R221, R226; the error is the spec's D14, log entry 15). -/
def Obligations.KeySkipsTestNamedKey : Prop :=
  ∀ (x : RegIdx) (s : State),
    (∀ k : KeyIdx, (s.reg x).toNat = k.val →
      (∃ t, exec (.skipKeyPressed x) s = .next t ∧ FrameBut [.pc] s t ∧
        (s.key[k.val] = true → t.pc = s.pc + 4) ∧ (s.key[k.val] = false → t.pc = s.pc + 2)) ∧
      ∃ t, exec (.skipKeyNotPressed x) s = .next t ∧ FrameBut [.pc] s t ∧
        (s.key[k.val] = false → t.pc = s.pc + 4) ∧ (s.key[k.val] = true → t.pc = s.pc + 2)) ∧
    ((s.reg x).toNat > 15 →
      exec (.skipKeyPressed x) s = .next (s.setErr (some (.keyIndexOutOfRange (s.reg x)))) ∧
      exec (.skipKeyNotPressed x) s = .next (s.setErr (some (.keyIndexOutOfRange (s.reg x)))))

/-- `wait-key` takes the lowest key that is down and moves on by 2; with none down the cycle changes nothing (R223; the
lowest key and no wait for a release are the spec's D15, log entry 19). -/
def Obligations.WaitKeyTakesLowestOrStalls : Prop :=
  ∀ (x : RegIdx) (s : State),
    (∀ k : KeyIdx, s.key[k.val] = true → (∀ j : KeyIdx, j < k → s.key[j.val] = false) →
      ∃ t, exec (.waitKey x) s = .next t ∧ (t.reg x).toNat = k.val ∧ t.pc = s.pc + 2 ∧ FrameBut [.pc, .reg x] s t) ∧
    ((∀ k : KeyIdx, s.key[k.val] = false) → exec (.waitKey x) s = .next s)

/-- `load-delay` copies `DT` to the register, `set-delay` the register to `DT` (R222, R224). -/
def Obligations.DelayTimerReadAndSet : Prop :=
  ∀ (x : RegIdx) (s : State),
    decodeWord (encodeXKK 0xF#4 x 0x07#8) = .ok (.loadDelay x) ∧
    decodeWord (encodeXKK 0xF#4 x 0x15#8) = .ok (.setDelay x) ∧
    (∃ t, exec (.loadDelay x) s = .next t ∧ t.reg x = s.DT ∧ t.pc = s.pc + 2 ∧ FrameBut [.pc, .reg x] s t) ∧
    ∃ t, exec (.setDelay x) s = .next t ∧ t.DT = s.reg x ∧ t.pc = s.pc + 2 ∧ FrameBut [.pc, .delay] s t

/-- `set-sound` copies the register to `ST` and never sets `snd_ended`, not even writing 0 over a running timer (R225; the
latter is the spec's D22, log entry 20). -/
def Obligations.SetSoundRaisesNoEvent : Prop :=
  ∀ (x : RegIdx) (s : State),
    ∃ t, exec (.setSound x) s = .next t ∧ t.ST = s.reg x ∧ t.sndEnded = s.sndEnded ∧ t.pc = s.pc + 2 ∧
      FrameBut [.pc, .sound] s t

/-! ## The host's operations -/

/-- tick: each timer goes down by one if nonzero, never below; `snd_ended` is set exactly when `ST` goes from 1 to 0; a
halted machine is left alone; no cycle, press, release or consume counts a timer down: a cycle changes one only by the
set instruction it runs (R255). -/
def Obligations.TickCountsDown : Prop :=
  ∀ s : State,
    (Healthy s →
      (tick s).DT.toNat = s.DT.toNat - 1 ∧ (tick s).ST.toNat = s.ST.toNat - 1 ∧
      ((tick s).sndEnded = true ↔ s.sndEnded = true ∨ s.ST.toNat = 1) ∧
      FrameBut [.delay, .sound, .sndEnded] s (tick s)) ∧
    (¬Healthy s → tick s = s) ∧
    (∀ t, cycle s = .next t →
      (t.DT = s.DT ∨ ∃ x, decodeWord (fetchWord s) = .ok (.setDelay x) ∧ t.DT = s.reg x) ∧
      (t.ST = s.ST ∨ ∃ x, decodeWord (fetchWord s) = .ok (.setSound x) ∧ t.ST = s.reg x)) ∧
    ∀ k, ∀ t ∈ [press k s, release k s, (consumeRedraw s).1, (consumeSoundEnded s).1], t.DT = s.DT ∧ t.ST = s.ST

/-- `k` ticks take each timer down by `k`, stopping at 0: a timer loaded with v reaches 0 at the v-th tick, and `snd_ended`
is set from then on if v was not 0 (R256, derived there). -/
def Obligations.TimerReachesZeroAfterItsValue : Prop :=
  ∀ (k : Nat) (s : State), Healthy s →
    (tick^[k] s).DT.toNat = s.DT.toNat - k ∧ (tick^[k] s).ST.toNat = s.ST.toNat - k ∧
    ((tick^[k] s).sndEnded = true ↔ s.sndEnded = true ∨ (1 ≤ s.ST.toNat ∧ s.ST.toNat ≤ k))

/-- press and release set and clear their one key flag, and nothing else; a halted machine is left alone (R258). -/
def Obligations.PressAndReleaseOneKey : Prop :=
  ∀ (k : KeyIdx) (s : State),
    (Healthy s →
      (press k s).key[k.val] = true ∧ FrameBut [.key k] s (press k s) ∧
      (release k s).key[k.val] = false ∧ FrameBut [.key k] s (release k s)) ∧
    (¬Healthy s → press k s = s ∧ release k s = s)

/-- The consume operations answer their flag and clear it, so that a second one answers 0 (R260, R261; sticky flags are
the spec's D22, log entry 20). -/
def Obligations.ConsumeReadsAndClears : Prop :=
  ∀ s : State, Healthy s →
    (consumeRedraw s).2 = s.redraw ∧ (consumeRedraw s).1.redraw = false ∧
    FrameBut [.redraw] s (consumeRedraw s).1 ∧ (consumeRedraw (consumeRedraw s).1).2 = false ∧
    (consumeSoundEnded s).2 = s.sndEnded ∧ (consumeSoundEnded s).1.sndEnded = false ∧
    FrameBut [.sndEnded] s (consumeSoundEnded s).1 ∧ (consumeSoundEnded (consumeSoundEnded s).1).2 = false

/-- The display read: 2048 bytes, byte `r * 64 + c` is 0x01 for a lit cell at row r, column c and 0x00 for a dark one
(R259; the order and the value are the spec's D19, log entry 18). -/
def Obligations.DisplayReadIsRowMajor : Prop :=
  ∀ s : State, (readDisplay s).length = 2048 ∧
    ∀ (r : Fin 32) (c : Fin 64),
      (readDisplay s)[r.val * 64 + c.val]? = some (if cellAt s.disp r c then 0x01 else 0x00)

/-- reset with any FONT: `pc` is 0x200, the font stands at 0x000, and every other element is zero, empty, dark, released or
`None`, and a load is awaited (R34, R290; all but `pc` and the font's place are the spec's decisions D4 and D5, log entries 9 and 10). -/
def Obligations.ResetValues : Prop :=
  ∀ (font : Vector Byte 80) (s : State),
    (resetOp font s).pc = 0x0200 ∧ (∀ k : Fin 80, readByte (resetOp font s).mem k.val = font[k.val]) ∧
    (∀ a, 80 ≤ a → readByte (resetOp font s).mem a = 0x00) ∧
    (∀ r, (resetOp font s).reg r = 0x00) ∧ (resetOp font s).I = 0x0000 ∧ (resetOp font s).sp.val = 0 ∧
    (∀ k : Fin 16, (resetOp font s).stack[k.val] = 0x0000) ∧ (resetOp font s).DT = 0x00 ∧ (resetOp font s).ST = 0x00 ∧
    (∀ k : KeyIdx, (resetOp font s).key[k.val] = false) ∧ (∀ r c, cellAt (resetOp font s).disp r c = false) ∧
    (resetOp font s).redraw = false ∧ (resetOp font s).sndEnded = false ∧ (resetOp font s).err = none ∧
    (resetOp font s).load = .awaited

/-- load-program: an image of at most 3584 bytes stands verbatim from 0x200 and nothing else changes; a longer one fails
and writes nothing, `err` among it; the model's own record keeps the answer (R245, R293; the corner cases are the spec's
D25, the record is log entry 5). -/
def Obligations.LoadProgramPlacesImage : Prop :=
  ∀ (image : List Byte) (s : State),
    (image.length ≤ 3584 → ∃ t, loadProgram image s = (t, true) ∧
      (∀ k (h : k < image.length), readByte t.mem (0x200 + k) = image[k]) ∧
      t.load = .closed ∧ Frame (fun p => p = .load ∨ ∃ a, 0x200 ≤ a ∧ a < 0x200 + image.length ∧ p = .byte a) s t) ∧
    (3584 < image.length → ∃ t, loadProgram image s = (t, false) ∧ t.load = .failed ∧ t.mem = s.mem ∧ FrameBut [.load] s t)

/-- The first cycle after reset and load fetches the first two bytes of the image, from 0x200 (R292). -/
def Obligations.EntryPointIsFixed : Prop :=
  ∀ (font : Vector Byte 80) (hi lo : Byte) (rest : List Byte) (s : State), rest.length + 2 ≤ 3584 →
    ∃ t, loadProgram (hi :: lo :: rest) (resetOp font s) = (t, true) ∧ t.pc = 0x0200 ∧ fetchWord t = hi ++ lo ∧
      Healthy t ∧ Fetchable t

/-- Falling off an image of even length ends with UnknownInstruction(0x0000): at every even address past the image and
below 0x1000 the cycle after reset and load fetches the word 0x0000, an unknown instruction (R295, derived there; the
zero fill is the spec's D5, log entry 10). -/
def Obligations.RunningOffTheImageHalts : Prop :=
  ∀ (font : Vector Byte 80) (image : List Byte) (s : State) (a : Word), image.length ≤ 3584 →
    a.getLsbD 0 = false → 0x200 + image.length ≤ a.toNat → a.toNat ≤ 0xFFE →
    ∃ t, loadProgram image (resetOp font s) = (t, true) ∧
      cycle (t.setPc a) = .next ((t.setPc a).setErr (some (.unknownInstruction 0x0000)))

/-! ## Rules over all instructions -/

/-- Where `pc` goes, for every instruction: the table of R114, which never looks at the skipped word; and unchanged in any
cycle that raises. -/
def Obligations.PcMovesAsTabled : Prop :=
  (∀ (i : Instr) (s t : State), Healthy s → exec i s = .next t →
    (Healthy t → t.pc = pcAfter i s) ∧ (¬Healthy t → t.pc = s.pc)) ∧
  ∀ s t : State, Healthy s → cycle s = .next t → ¬Healthy t → t.pc = s.pc

/-- What each instruction may write and raise, for every instruction: where its check fails it raises its one error, with
that payload, and changes `err` alone; otherwise it changes only the parts R37, R65 and R21 give it, and `err` stays. The
26 instructions without a check never raise (R10, R37, R65, R115, R240, R246; precise errors and the payloads are the
spec's D10, D12 and D13, log entries 1, 14 and 24). -/
def Obligations.InstructionsWriteOnlyTheirParts : Prop :=
  ∀ (i : Instr) (s t : State), exec i s = .next t →
    ((∀ e, ¬mayRaise i s e) → Frame (writes i s) s t ∧ t.err = s.err) ∧
    ∀ e, mayRaise i s e → t = s.setErr (some e)

/-- No instruction reads `ST`, `snd_ended` or `redraw`: changing one beforehand changes nothing of what the instruction
does but that element itself, and where the instruction writes the element (`set-sound`, `clear-screen`, a `draw` that does
not raise) not even that (R25, R28, R29, R35). -/
def Obligations.HostSideStateIsUnreadable : Prop :=
  ∀ (i : Instr) (s t : State), exec i s = .next t →
    (∀ v, (∀ x, i ≠ .setSound x) → exec i (s.setST v) = .next (t.setST v)) ∧
    (∀ x v, i = .setSound x → exec i (s.setST v) = .next t) ∧
    (∀ b, exec i (s.setSndEnded b) = .next (t.setSndEnded b)) ∧
    (∀ b, (i ≠ .clearScreen ∧ ∀ x y n, i ≠ .draw x y n) → exec i (s.setRedraw b) = .next (t.setRedraw b)) ∧
    (∀ b, i = .clearScreen → exec i (s.setRedraw b) = .next t) ∧
    ∀ b x y n, i = .draw x y n →
      ((∀ e, ¬mayRaise i s e) → exec i (s.setRedraw b) = .next t) ∧
      ∀ e, mayRaise i s e → exec i (s.setRedraw b) = .next (t.setRedraw b)

/-! ## The host's schedule -/

/-- Each operation of the host is one step: the operation at the head of the host's list, taken off it, and nothing around
it; with an empty list a cycle (R62, R262; the list is log entry 4, the load's record log entries 5 and 6). -/
def Obligations.EachHostOperationIsOneStep : Prop :=
  ∀ (s : State) (rest : List HostOp),
    (∀ font, s.schedule = .reset font :: rest → step s = .next (resetOp font (s.setSchedule rest))) ∧
    (∀ image, s.schedule = .loadProgram image :: rest → s.load ≠ .closed →
      step s = .next (loadProgram image (s.setSchedule rest)).1) ∧
    (s.schedule = .cycle :: rest → s.load ≠ .failed → step s = cycle ((s.setSchedule rest).setLoad .closed)) ∧
    (s.schedule = [] → s.load ≠ .failed → step s = cycle (s.setLoad .closed)) ∧
    (s.schedule = .tick :: rest → step s = .next (tick (s.setSchedule rest))) ∧
    (∀ k, s.schedule = .press k :: rest → step s = .next (press k (s.setSchedule rest))) ∧
    (∀ k, s.schedule = .release k :: rest → step s = .next (release k (s.setSchedule rest))) ∧
    (s.schedule = .readDisplay :: rest → step s = .next (s.setSchedule rest)) ∧
    (s.schedule = .consumeRedraw :: rest → step s = .next (consumeRedraw (s.setSchedule rest)).1) ∧
    (s.schedule = .consumeSoundEnded :: rest → step s = .next (consumeSoundEnded (s.setSchedule rest)).1)

/-- A step stops only where the host breaks the order: a cycle straight after a failed load ("execution must not proceed",
R245, R293) and a load after a successful one or after the first cycle, with no reset in between (R263). It never faults
(log entries 1, 5, 6). -/
def Obligations.StepStopsOnlyOutOfOrder : Prop :=
  ∀ s : State,
    (s.load = .failed ∧ (s.schedule = [] ∨ ∃ rest, s.schedule = .cycle :: rest) →
      step s = .refused .cycleAfterFailedLoad) ∧
    (s.load = .closed ∧ (∃ image rest, s.schedule = .loadProgram image :: rest) →
      step s = .refused .loadWithoutReset) ∧
    (¬(s.load = .failed ∧ (s.schedule = [] ∨ ∃ rest, s.schedule = .cycle :: rest)) →
      ¬(s.load = .closed ∧ ∃ image rest, s.schedule = .loadProgram image :: rest) → ∃ t, step s = .next t)

/-- A failed load is recoverable: it leaves `err` and memory alone, and after it, whatever ticks, presses, releases and
consumes come between, the host may reset and load a good image, whose first word is then the one fetched (R245, R290,
R293; log entries 5 and 6). -/
def Obligations.FailedLoadIsRecoverable : Prop :=
  ∀ (s : State) (bad : List Byte) (between : List HostOp) (font : Vector Byte 80) (hi lo : Byte) (good : List Byte)
    (rest : List HostOp), s.load ≠ .closed → 3584 < bad.length → good.length + 2 ≤ 3584 →
    (∀ op ∈ between, op ≠ .cycle ∧ (∀ f, op ≠ .reset f) ∧ ∀ img, op ≠ .loadProgram img) →
    s.schedule = .loadProgram bad :: (between ++ .reset font :: .loadProgram (hi :: lo :: good) :: rest) →
    (∃ u, step s = .next u ∧ u.load = .failed ∧ u.err = s.err ∧ u.mem = s.mem) ∧
    ∃ t, core.run (between.length + 3) s = .next t ∧ Healthy t ∧ Fetchable t ∧ fetchWord t = hi ++ lo ∧
      t.load = .closed ∧ t.schedule = rest
end

