-- ==== Sys2Proof/Laws/Decode.lean ====
section
/-! SUPPORT. The fields of an assembled word, one lemma per field and format: no bit of an operand is dropped. -/

namespace Sys2Proof

section
variable {n m : Nat} (a : BitVec n) (b : BitVec m)

theorem extract_append_high : (a ++ b).extractLsb' m n = a := BitVec.extractLsb'_append_eq_left

theorem extract_append_low : (a ++ b).extractLsb' 0 m = b := by
  ext i hi
  simp [BitVec.getLsbD_append, hi]

theorem extract_append_above (s l : Nat) : (a ++ b).extractLsb' (m + s) l = a.extractLsb' s l := by
  ext i hi
  simp [BitVec.getLsbD_append, Nat.add_assoc]

theorem extract_append_below (s l : Nat) (h : s + l ≤ m) : (a ++ b).extractLsb' s l = b.extractLsb' s l := by
  ext i hi
  have : s + i < m := by omega
  simp [BitVec.getLsbD_append, this]

end

/-! ## Format NNN -/

section
variable (op : BitVec 4) (nnn : BitVec 12)

theorem opField_encodeNNN : opField (encodeNNN op nnn) = op := extract_append_high op nnn

theorem nnnField_encodeNNN : nnnField (encodeNNN op nnn) = nnn := extract_append_low op nnn

end

/-! ## Formats XKK and XS -/

section
variable (op : BitVec 4) (x : RegIdx) (kk : Byte)

theorem opField_encodeXKK : opField (encodeXKK op x kk) = op :=
  (extract_append_above (op ++ (BitVec.ofFin x : BitVec 4)) kk 4 4).trans (extract_append_high op _)

theorem xField_encodeXKK : xField (encodeXKK op x kk) = x :=
  congrArg BitVec.toFin ((extract_append_above (op ++ (BitVec.ofFin x : BitVec 4)) kk 0 4).trans (extract_append_low op _))

theorem kkField_encodeXKK : kkField (encodeXKK op x kk) = kk :=
  extract_append_low (op ++ (BitVec.ofFin x : BitVec 4)) kk

end

/-! ## Formats XY and XYN -/

section
variable (op : BitVec 4) (x y : RegIdx) (k : BitVec 4)

theorem opField_encodeXYN : opField (encodeXYN op x y k) = op :=
  (extract_append_above (op ++ (BitVec.ofFin x : BitVec 4) ++ (BitVec.ofFin y : BitVec 4)) k 8 4).trans
    ((extract_append_above (op ++ (BitVec.ofFin x : BitVec 4)) (BitVec.ofFin y : BitVec 4) 4 4).trans
      (extract_append_high op _))

theorem xField_encodeXYN : xField (encodeXYN op x y k) = x :=
  congrArg BitVec.toFin
    ((extract_append_above (op ++ (BitVec.ofFin x : BitVec 4) ++ (BitVec.ofFin y : BitVec 4)) k 4 4).trans
      ((extract_append_above (op ++ (BitVec.ofFin x : BitVec 4)) (BitVec.ofFin y : BitVec 4) 0 4).trans
        (extract_append_low op _)))

theorem yField_encodeXYN : yField (encodeXYN op x y k) = y :=
  congrArg BitVec.toFin
    ((extract_append_above (op ++ (BitVec.ofFin x : BitVec 4) ++ (BitVec.ofFin y : BitVec 4)) k 0 4).trans
      (extract_append_low (op ++ (BitVec.ofFin x : BitVec 4)) _))

theorem nField_encodeXYN : nField (encodeXYN op x y k) = k :=
  extract_append_low (op ++ (BitVec.ofFin x : BitVec 4) ++ (BitVec.ofFin y : BitVec 4)) k

end

/-! ## Bytes and words (R52) -/

/-- The word read back from its own two bytes. -/
theorem wordOfBytes_bytes (w : Word) : wordOfBytes (w.extractLsb' 8 8) (w.extractLsb' 0 8) = w := by
  apply BitVec.eq_of_toNat_eq
  have h := w.isLt
  simp only [wordOfBytes, BitVec.toNat_append, BitVec.extractLsb'_toNat, Nat.shiftRight_zero]
  rw [← Nat.shiftLeft_add_eq_or_of_lt (Nat.mod_lt _ (by decide)), Nat.shiftLeft_eq, Nat.shiftRight_eq_div_pow]
  omega

theorem decodeBytes_bytesOfWord (w : Word) (rest : List Byte) :
    decodeBytes (bytesOfWord w ++ rest) = (decodeWord w).map (fun i => (i, rest)) := by
  simp only [bytesOfWord, List.cons_append, List.nil_append, decodeBytes, wordOfBytes_bytes]
  cases decodeWord w <;> rfl

/-! ## What a decoded word is -/

/-- A word that does not decode is reported as itself. -/
theorem decodeWord_error {w : Word} {e : DecodeError} (h : decodeWord w = .error e) : e = .unknownInstruction w := by
  unfold decodeWord decodeFamily0 decodeFamily8 decodeFamilyE decodeFamilyF at h
  split at h <;> (try split at h) <;> (try split at h) <;> (try cases h) <;> rfl

end Sys2Proof
end

