-- ==== Sys2Proof/Laws/Memory.lean ====
section
/-! SUPPORT. The laws of memory: read after write, and that every operation keeps the canonical form. -/

namespace Sys2Proof.Machine

theorem lookup_insertCell (m : Memory) (a b : Nat) (v : Byte) :
    lookup (insertCell m a v) b = if b = a then some v else lookup m b := by
  induction m with
  | nil => simp [insertCell, lookup]
  | cons c rest ih =>
    obtain ⟨d, w⟩ := c
    simp only [insertCell]
    split
    · simp [lookup]
    · split
      · next h => subst h; by_cases hb : b = a <;> simp [lookup, hb]
      · next h1 h2 =>
        by_cases hb : b = d
        · subst hb; simp [lookup, Ne.symm h2]
        · simp [lookup, hb, ih]

theorem lookup_eraseCell (m : Memory) (a b : Nat) :
    lookup (eraseCell m a) b = if b = a then none else lookup m b := by
  induction m with
  | nil => simp [eraseCell, lookup]
  | cons c rest ih =>
    obtain ⟨d, w⟩ := c
    by_cases hd : d = a
    · subst hd
      simp only [eraseCell, List.filter_cons] at ih ⊢
      by_cases hb : b = d <;> simp_all [lookup]
    · simp only [eraseCell, List.filter_cons] at ih ⊢
      simp only [ne_eq, hd, not_false_eq_true, decide_true, if_true, lookup, ih]
      by_cases hb : b = d
      · subst hb; simp [hd]
      · simp [hb]

/-- A read after a write: the value at the address written (inside the space), the old value elsewhere. -/
theorem readByte_writeByte (m : Memory) (a b : Nat) (v : Byte) :
    readByte (writeByte m a v) b = if b = a ∧ a < Config.memSize then v else readByte m b := by
  unfold writeByte
  by_cases ha : a < Config.memSize
  · by_cases hv : v = unlisted a
    · subst hv
      by_cases hb : b = a <;> simp [readByte, lookup_eraseCell, ha, hb]
    · by_cases hb : b = a <;> simp [readByte, lookup_insertCell, ha, hb, hv]
  · simp [ha]

/-- Reading after writing a run of bytes that lies inside the space. -/
theorem readByte_writeBytes (m : Memory) (a b : Nat) (l : List Byte) (h : a + l.length ≤ Config.memSize) :
    readByte (writeBytes m a l) b = if a ≤ b ∧ b < a + l.length then l.getD (b - a) 0 else readByte m b := by
  induction l generalizing m a with
  | nil => simp [writeBytes]
  | cons v rest ih =>
    simp only [List.length_cons] at h
    simp only [writeBytes, List.length_cons]
    rw [ih (writeByte m a v) (a + 1) (by omega), readByte_writeByte]
    by_cases hb : b = a
    · subst hb
      have : b < Config.memSize := by omega
      simp [this]
    · by_cases hin : a + 1 ≤ b ∧ b < a + 1 + rest.length
      · have h2 : a ≤ b ∧ b < a + (rest.length + 1) := by omega
        have h3 : b - a = (b - (a + 1)) + 1 := by omega
        rw [if_pos hin, if_pos h2, h3, List.getD_cons_succ]
      · have h2 : ¬(a ≤ b ∧ b < a + (rest.length + 1)) := by omega
        rw [if_neg hin, if_neg h2, if_neg (by tauto)]

theorem mem_insertCell {m : Memory} {a : Nat} {v : Byte} {c : Host.Cell} (h : c ∈ insertCell m a v) :
    c = (a, v) ∨ c ∈ m := by
  induction m with
  | nil => simpa [insertCell] using h
  | cons d rest ih =>
    obtain ⟨b, w⟩ := d
    simp only [insertCell] at h
    split at h
    · simpa using h
    · split at h
      · simp only [List.mem_cons] at h ⊢; tauto
      · simp only [List.mem_cons] at h ⊢
        rcases h with h | h
        · tauto
        · rcases ih h with h | h <;> tauto

theorem memWf_nil : memWf [] := by simp [memWf]

theorem memWf_eraseCell {m : Memory} (h : memWf m) (a : Nat) : memWf (eraseCell m a) :=
  ⟨h.1.filter _, fun c hc => h.2 c (List.mem_of_mem_filter hc)⟩

theorem pairwise_insertCell {m : Memory} (h : m.Pairwise (fun p q => p.1 < q.1)) (a : Nat) (v : Byte) :
    (insertCell m a v).Pairwise (fun p q => p.1 < q.1) := by
  induction m with
  | nil => simp [insertCell]
  | cons d rest ih =>
    obtain ⟨b, w⟩ := d
    have hr := List.pairwise_cons.mp h
    simp only [insertCell]
    split
    · next hlt =>
      refine List.pairwise_cons.mpr ⟨?_, h⟩
      intro c hc
      rcases List.mem_cons.mp hc with rfl | hc
      · exact hlt
      · exact lt_trans hlt (hr.1 c hc)
    · split
      · next heq => subst heq; exact List.pairwise_cons.mpr ⟨hr.1, hr.2⟩
      · next h1 h2 =>
        refine List.pairwise_cons.mpr ⟨?_, ih hr.2⟩
        intro c hc
        rcases mem_insertCell hc with rfl | hc
        · show b < a; omega
        · exact hr.1 c hc

/-- A write keeps the canonical form. -/
theorem memWf_writeByte {m : Memory} (h : memWf m) (a : Nat) (v : Byte) : memWf (writeByte m a v) := by
  unfold writeByte
  split
  · next ha =>
    split
    · exact memWf_eraseCell h a
    · next hv =>
      refine ⟨pairwise_insertCell h.1 a v, fun c hc => ?_⟩
      rcases mem_insertCell hc with rfl | hc
      · exact ⟨ha, hv⟩
      · exact h.2 c hc
  · exact h

/-- Writing a run of bytes keeps the canonical form. -/
theorem memWf_writeBytes {m : Memory} (h : memWf m) (a : Nat) (l : List Byte) : memWf (writeBytes m a l) := by
  induction l generalizing m a with
  | nil => exact h
  | cons v rest ih => exact ih (memWf_writeByte h a v) (a + 1)

theorem lookup_eq_none_of_lt {m : Memory} {a : Nat} (h : ∀ c ∈ m, a < c.1) : lookup m a = none := by
  induction m with
  | nil => rfl
  | cons d rest ih =>
    have hd := h d (by simp)
    simp only [lookup, if_neg (ne_of_lt hd)]
    exact ih fun c hc => h c (by simp [hc])

@[simp] theorem readBytes_length (m : Memory) (a n : Nat) : (readBytes m a n).length = n := by simp [readBytes]

end Sys2Proof.Machine
end

