-- ==== Sys2Proof/Laws/State.lean ====
section
/-! SUPPORT. One lemma per field per named update of State, so that no proof unfolds a record update. -/

namespace Sys2Proof.Machine

section
variable (s : State) (i : RegIdx) (v : Byte)

@[simp] theorem setReg_x : (s.setReg i v).x = s.x.set i.val v := rfl
@[simp] theorem setReg_I : (s.setReg i v).I = s.I := rfl
@[simp] theorem setReg_pc : (s.setReg i v).pc = s.pc := rfl
@[simp] theorem setReg_sp : (s.setReg i v).sp = s.sp := rfl
@[simp] theorem setReg_stack : (s.setReg i v).stack = s.stack := rfl
@[simp] theorem setReg_DT : (s.setReg i v).DT = s.DT := rfl
@[simp] theorem setReg_ST : (s.setReg i v).ST = s.ST := rfl
@[simp] theorem setReg_key : (s.setReg i v).key = s.key := rfl
@[simp] theorem setReg_disp : (s.setReg i v).disp = s.disp := rfl
@[simp] theorem setReg_redraw : (s.setReg i v).redraw = s.redraw := rfl
@[simp] theorem setReg_sndEnded : (s.setReg i v).sndEnded = s.sndEnded := rfl
@[simp] theorem setReg_err : (s.setReg i v).err = s.err := rfl
@[simp] theorem setReg_mem : (s.setReg i v).mem = s.mem := rfl
@[simp] theorem setReg_draws : (s.setReg i v).draws = s.draws := rfl
@[simp] theorem setReg_schedule : (s.setReg i v).schedule = s.schedule := rfl
@[simp] theorem setReg_load : (s.setReg i v).load = s.load := rfl

end

section
variable (s : State) (r : Vector Byte 16)

@[simp] theorem setRegs_x : (s.setRegs r).x = r := rfl
@[simp] theorem setRegs_I : (s.setRegs r).I = s.I := rfl
@[simp] theorem setRegs_pc : (s.setRegs r).pc = s.pc := rfl
@[simp] theorem setRegs_sp : (s.setRegs r).sp = s.sp := rfl
@[simp] theorem setRegs_stack : (s.setRegs r).stack = s.stack := rfl
@[simp] theorem setRegs_DT : (s.setRegs r).DT = s.DT := rfl
@[simp] theorem setRegs_ST : (s.setRegs r).ST = s.ST := rfl
@[simp] theorem setRegs_key : (s.setRegs r).key = s.key := rfl
@[simp] theorem setRegs_disp : (s.setRegs r).disp = s.disp := rfl
@[simp] theorem setRegs_redraw : (s.setRegs r).redraw = s.redraw := rfl
@[simp] theorem setRegs_sndEnded : (s.setRegs r).sndEnded = s.sndEnded := rfl
@[simp] theorem setRegs_err : (s.setRegs r).err = s.err := rfl
@[simp] theorem setRegs_mem : (s.setRegs r).mem = s.mem := rfl
@[simp] theorem setRegs_draws : (s.setRegs r).draws = s.draws := rfl
@[simp] theorem setRegs_schedule : (s.setRegs r).schedule = s.schedule := rfl
@[simp] theorem setRegs_load : (s.setRegs r).load = s.load := rfl

end

section
variable (s : State) (a : Word)

@[simp] theorem setI_x : (s.setI a).x = s.x := rfl
@[simp] theorem setI_I : (s.setI a).I = a := rfl
@[simp] theorem setI_pc : (s.setI a).pc = s.pc := rfl
@[simp] theorem setI_sp : (s.setI a).sp = s.sp := rfl
@[simp] theorem setI_stack : (s.setI a).stack = s.stack := rfl
@[simp] theorem setI_DT : (s.setI a).DT = s.DT := rfl
@[simp] theorem setI_ST : (s.setI a).ST = s.ST := rfl
@[simp] theorem setI_key : (s.setI a).key = s.key := rfl
@[simp] theorem setI_disp : (s.setI a).disp = s.disp := rfl
@[simp] theorem setI_redraw : (s.setI a).redraw = s.redraw := rfl
@[simp] theorem setI_sndEnded : (s.setI a).sndEnded = s.sndEnded := rfl
@[simp] theorem setI_err : (s.setI a).err = s.err := rfl
@[simp] theorem setI_mem : (s.setI a).mem = s.mem := rfl
@[simp] theorem setI_draws : (s.setI a).draws = s.draws := rfl
@[simp] theorem setI_schedule : (s.setI a).schedule = s.schedule := rfl
@[simp] theorem setI_load : (s.setI a).load = s.load := rfl
@[simp] theorem setI_reg (j : RegIdx) : (s.setI a).reg j = s.reg j := rfl

end

section
variable (s : State) (a : Word)

@[simp] theorem setPc_x : (s.setPc a).x = s.x := rfl
@[simp] theorem setPc_I : (s.setPc a).I = s.I := rfl
@[simp] theorem setPc_pc : (s.setPc a).pc = a := rfl
@[simp] theorem setPc_sp : (s.setPc a).sp = s.sp := rfl
@[simp] theorem setPc_stack : (s.setPc a).stack = s.stack := rfl
@[simp] theorem setPc_DT : (s.setPc a).DT = s.DT := rfl
@[simp] theorem setPc_ST : (s.setPc a).ST = s.ST := rfl
@[simp] theorem setPc_key : (s.setPc a).key = s.key := rfl
@[simp] theorem setPc_disp : (s.setPc a).disp = s.disp := rfl
@[simp] theorem setPc_redraw : (s.setPc a).redraw = s.redraw := rfl
@[simp] theorem setPc_sndEnded : (s.setPc a).sndEnded = s.sndEnded := rfl
@[simp] theorem setPc_err : (s.setPc a).err = s.err := rfl
@[simp] theorem setPc_mem : (s.setPc a).mem = s.mem := rfl
@[simp] theorem setPc_draws : (s.setPc a).draws = s.draws := rfl
@[simp] theorem setPc_schedule : (s.setPc a).schedule = s.schedule := rfl
@[simp] theorem setPc_load : (s.setPc a).load = s.load := rfl
@[simp] theorem setPc_reg (j : RegIdx) : (s.setPc a).reg j = s.reg j := rfl

end

section
variable (s : State) (m : Memory)

@[simp] theorem setMem_x : (s.setMem m).x = s.x := rfl
@[simp] theorem setMem_I : (s.setMem m).I = s.I := rfl
@[simp] theorem setMem_pc : (s.setMem m).pc = s.pc := rfl
@[simp] theorem setMem_sp : (s.setMem m).sp = s.sp := rfl
@[simp] theorem setMem_stack : (s.setMem m).stack = s.stack := rfl
@[simp] theorem setMem_DT : (s.setMem m).DT = s.DT := rfl
@[simp] theorem setMem_ST : (s.setMem m).ST = s.ST := rfl
@[simp] theorem setMem_key : (s.setMem m).key = s.key := rfl
@[simp] theorem setMem_disp : (s.setMem m).disp = s.disp := rfl
@[simp] theorem setMem_redraw : (s.setMem m).redraw = s.redraw := rfl
@[simp] theorem setMem_sndEnded : (s.setMem m).sndEnded = s.sndEnded := rfl
@[simp] theorem setMem_err : (s.setMem m).err = s.err := rfl
@[simp] theorem setMem_mem : (s.setMem m).mem = m := rfl
@[simp] theorem setMem_draws : (s.setMem m).draws = s.draws := rfl
@[simp] theorem setMem_schedule : (s.setMem m).schedule = s.schedule := rfl
@[simp] theorem setMem_load : (s.setMem m).load = s.load := rfl
@[simp] theorem setMem_reg (j : RegIdx) : (s.setMem m).reg j = s.reg j := rfl

end

section
variable (s : State) (v : Byte)

@[simp] theorem setDT_x : (s.setDT v).x = s.x := rfl
@[simp] theorem setDT_I : (s.setDT v).I = s.I := rfl
@[simp] theorem setDT_pc : (s.setDT v).pc = s.pc := rfl
@[simp] theorem setDT_sp : (s.setDT v).sp = s.sp := rfl
@[simp] theorem setDT_stack : (s.setDT v).stack = s.stack := rfl
@[simp] theorem setDT_DT : (s.setDT v).DT = v := rfl
@[simp] theorem setDT_ST : (s.setDT v).ST = s.ST := rfl
@[simp] theorem setDT_key : (s.setDT v).key = s.key := rfl
@[simp] theorem setDT_disp : (s.setDT v).disp = s.disp := rfl
@[simp] theorem setDT_redraw : (s.setDT v).redraw = s.redraw := rfl
@[simp] theorem setDT_sndEnded : (s.setDT v).sndEnded = s.sndEnded := rfl
@[simp] theorem setDT_err : (s.setDT v).err = s.err := rfl
@[simp] theorem setDT_mem : (s.setDT v).mem = s.mem := rfl
@[simp] theorem setDT_draws : (s.setDT v).draws = s.draws := rfl
@[simp] theorem setDT_schedule : (s.setDT v).schedule = s.schedule := rfl
@[simp] theorem setDT_load : (s.setDT v).load = s.load := rfl
@[simp] theorem setDT_reg (j : RegIdx) : (s.setDT v).reg j = s.reg j := rfl

end

section
variable (s : State) (v : Byte)

@[simp] theorem setST_x : (s.setST v).x = s.x := rfl
@[simp] theorem setST_I : (s.setST v).I = s.I := rfl
@[simp] theorem setST_pc : (s.setST v).pc = s.pc := rfl
@[simp] theorem setST_sp : (s.setST v).sp = s.sp := rfl
@[simp] theorem setST_stack : (s.setST v).stack = s.stack := rfl
@[simp] theorem setST_DT : (s.setST v).DT = s.DT := rfl
@[simp] theorem setST_ST : (s.setST v).ST = v := rfl
@[simp] theorem setST_key : (s.setST v).key = s.key := rfl
@[simp] theorem setST_disp : (s.setST v).disp = s.disp := rfl
@[simp] theorem setST_redraw : (s.setST v).redraw = s.redraw := rfl
@[simp] theorem setST_sndEnded : (s.setST v).sndEnded = s.sndEnded := rfl
@[simp] theorem setST_err : (s.setST v).err = s.err := rfl
@[simp] theorem setST_mem : (s.setST v).mem = s.mem := rfl
@[simp] theorem setST_draws : (s.setST v).draws = s.draws := rfl
@[simp] theorem setST_schedule : (s.setST v).schedule = s.schedule := rfl
@[simp] theorem setST_load : (s.setST v).load = s.load := rfl
@[simp] theorem setST_reg (j : RegIdx) : (s.setST v).reg j = s.reg j := rfl

end

section
variable (s : State) (k : KeyIdx) (b : Bool)

@[simp] theorem setKey_x : (s.setKey k b).x = s.x := rfl
@[simp] theorem setKey_I : (s.setKey k b).I = s.I := rfl
@[simp] theorem setKey_pc : (s.setKey k b).pc = s.pc := rfl
@[simp] theorem setKey_sp : (s.setKey k b).sp = s.sp := rfl
@[simp] theorem setKey_stack : (s.setKey k b).stack = s.stack := rfl
@[simp] theorem setKey_DT : (s.setKey k b).DT = s.DT := rfl
@[simp] theorem setKey_ST : (s.setKey k b).ST = s.ST := rfl
@[simp] theorem setKey_key : (s.setKey k b).key = s.key.set k.val b := rfl
@[simp] theorem setKey_disp : (s.setKey k b).disp = s.disp := rfl
@[simp] theorem setKey_redraw : (s.setKey k b).redraw = s.redraw := rfl
@[simp] theorem setKey_sndEnded : (s.setKey k b).sndEnded = s.sndEnded := rfl
@[simp] theorem setKey_err : (s.setKey k b).err = s.err := rfl
@[simp] theorem setKey_mem : (s.setKey k b).mem = s.mem := rfl
@[simp] theorem setKey_draws : (s.setKey k b).draws = s.draws := rfl
@[simp] theorem setKey_schedule : (s.setKey k b).schedule = s.schedule := rfl
@[simp] theorem setKey_load : (s.setKey k b).load = s.load := rfl
@[simp] theorem setKey_reg (j : RegIdx) : (s.setKey k b).reg j = s.reg j := rfl

end

section
variable (s : State) (d : Display)

@[simp] theorem setDisp_x : (s.setDisp d).x = s.x := rfl
@[simp] theorem setDisp_I : (s.setDisp d).I = s.I := rfl
@[simp] theorem setDisp_pc : (s.setDisp d).pc = s.pc := rfl
@[simp] theorem setDisp_sp : (s.setDisp d).sp = s.sp := rfl
@[simp] theorem setDisp_stack : (s.setDisp d).stack = s.stack := rfl
@[simp] theorem setDisp_DT : (s.setDisp d).DT = s.DT := rfl
@[simp] theorem setDisp_ST : (s.setDisp d).ST = s.ST := rfl
@[simp] theorem setDisp_key : (s.setDisp d).key = s.key := rfl
@[simp] theorem setDisp_disp : (s.setDisp d).disp = d := rfl
@[simp] theorem setDisp_redraw : (s.setDisp d).redraw = s.redraw := rfl
@[simp] theorem setDisp_sndEnded : (s.setDisp d).sndEnded = s.sndEnded := rfl
@[simp] theorem setDisp_err : (s.setDisp d).err = s.err := rfl
@[simp] theorem setDisp_mem : (s.setDisp d).mem = s.mem := rfl
@[simp] theorem setDisp_draws : (s.setDisp d).draws = s.draws := rfl
@[simp] theorem setDisp_schedule : (s.setDisp d).schedule = s.schedule := rfl
@[simp] theorem setDisp_load : (s.setDisp d).load = s.load := rfl
@[simp] theorem setDisp_reg (j : RegIdx) : (s.setDisp d).reg j = s.reg j := rfl

end

section
variable (s : State) (b : Bool)

@[simp] theorem setRedraw_x : (s.setRedraw b).x = s.x := rfl
@[simp] theorem setRedraw_I : (s.setRedraw b).I = s.I := rfl
@[simp] theorem setRedraw_pc : (s.setRedraw b).pc = s.pc := rfl
@[simp] theorem setRedraw_sp : (s.setRedraw b).sp = s.sp := rfl
@[simp] theorem setRedraw_stack : (s.setRedraw b).stack = s.stack := rfl
@[simp] theorem setRedraw_DT : (s.setRedraw b).DT = s.DT := rfl
@[simp] theorem setRedraw_ST : (s.setRedraw b).ST = s.ST := rfl
@[simp] theorem setRedraw_key : (s.setRedraw b).key = s.key := rfl
@[simp] theorem setRedraw_disp : (s.setRedraw b).disp = s.disp := rfl
@[simp] theorem setRedraw_redraw : (s.setRedraw b).redraw = b := rfl
@[simp] theorem setRedraw_sndEnded : (s.setRedraw b).sndEnded = s.sndEnded := rfl
@[simp] theorem setRedraw_err : (s.setRedraw b).err = s.err := rfl
@[simp] theorem setRedraw_mem : (s.setRedraw b).mem = s.mem := rfl
@[simp] theorem setRedraw_draws : (s.setRedraw b).draws = s.draws := rfl
@[simp] theorem setRedraw_schedule : (s.setRedraw b).schedule = s.schedule := rfl
@[simp] theorem setRedraw_load : (s.setRedraw b).load = s.load := rfl
@[simp] theorem setRedraw_reg (j : RegIdx) : (s.setRedraw b).reg j = s.reg j := rfl

end

section
variable (s : State) (b : Bool)

@[simp] theorem setSndEnded_x : (s.setSndEnded b).x = s.x := rfl
@[simp] theorem setSndEnded_I : (s.setSndEnded b).I = s.I := rfl
@[simp] theorem setSndEnded_pc : (s.setSndEnded b).pc = s.pc := rfl
@[simp] theorem setSndEnded_sp : (s.setSndEnded b).sp = s.sp := rfl
@[simp] theorem setSndEnded_stack : (s.setSndEnded b).stack = s.stack := rfl
@[simp] theorem setSndEnded_DT : (s.setSndEnded b).DT = s.DT := rfl
@[simp] theorem setSndEnded_ST : (s.setSndEnded b).ST = s.ST := rfl
@[simp] theorem setSndEnded_key : (s.setSndEnded b).key = s.key := rfl
@[simp] theorem setSndEnded_disp : (s.setSndEnded b).disp = s.disp := rfl
@[simp] theorem setSndEnded_redraw : (s.setSndEnded b).redraw = s.redraw := rfl
@[simp] theorem setSndEnded_sndEnded : (s.setSndEnded b).sndEnded = b := rfl
@[simp] theorem setSndEnded_err : (s.setSndEnded b).err = s.err := rfl
@[simp] theorem setSndEnded_mem : (s.setSndEnded b).mem = s.mem := rfl
@[simp] theorem setSndEnded_draws : (s.setSndEnded b).draws = s.draws := rfl
@[simp] theorem setSndEnded_schedule : (s.setSndEnded b).schedule = s.schedule := rfl
@[simp] theorem setSndEnded_load : (s.setSndEnded b).load = s.load := rfl
@[simp] theorem setSndEnded_reg (j : RegIdx) : (s.setSndEnded b).reg j = s.reg j := rfl

end

section
variable (s : State) (e : Option ErrorValue)

@[simp] theorem setErr_x : (s.setErr e).x = s.x := rfl
@[simp] theorem setErr_I : (s.setErr e).I = s.I := rfl
@[simp] theorem setErr_pc : (s.setErr e).pc = s.pc := rfl
@[simp] theorem setErr_sp : (s.setErr e).sp = s.sp := rfl
@[simp] theorem setErr_stack : (s.setErr e).stack = s.stack := rfl
@[simp] theorem setErr_DT : (s.setErr e).DT = s.DT := rfl
@[simp] theorem setErr_ST : (s.setErr e).ST = s.ST := rfl
@[simp] theorem setErr_key : (s.setErr e).key = s.key := rfl
@[simp] theorem setErr_disp : (s.setErr e).disp = s.disp := rfl
@[simp] theorem setErr_redraw : (s.setErr e).redraw = s.redraw := rfl
@[simp] theorem setErr_sndEnded : (s.setErr e).sndEnded = s.sndEnded := rfl
@[simp] theorem setErr_err : (s.setErr e).err = e := rfl
@[simp] theorem setErr_mem : (s.setErr e).mem = s.mem := rfl
@[simp] theorem setErr_draws : (s.setErr e).draws = s.draws := rfl
@[simp] theorem setErr_schedule : (s.setErr e).schedule = s.schedule := rfl
@[simp] theorem setErr_load : (s.setErr e).load = s.load := rfl
@[simp] theorem setErr_reg (j : RegIdx) : (s.setErr e).reg j = s.reg j := rfl

end

section
variable (s : State) (n : Nat)

@[simp] theorem setDraws_x : (s.setDraws n).x = s.x := rfl
@[simp] theorem setDraws_I : (s.setDraws n).I = s.I := rfl
@[simp] theorem setDraws_pc : (s.setDraws n).pc = s.pc := rfl
@[simp] theorem setDraws_sp : (s.setDraws n).sp = s.sp := rfl
@[simp] theorem setDraws_stack : (s.setDraws n).stack = s.stack := rfl
@[simp] theorem setDraws_DT : (s.setDraws n).DT = s.DT := rfl
@[simp] theorem setDraws_ST : (s.setDraws n).ST = s.ST := rfl
@[simp] theorem setDraws_key : (s.setDraws n).key = s.key := rfl
@[simp] theorem setDraws_disp : (s.setDraws n).disp = s.disp := rfl
@[simp] theorem setDraws_redraw : (s.setDraws n).redraw = s.redraw := rfl
@[simp] theorem setDraws_sndEnded : (s.setDraws n).sndEnded = s.sndEnded := rfl
@[simp] theorem setDraws_err : (s.setDraws n).err = s.err := rfl
@[simp] theorem setDraws_mem : (s.setDraws n).mem = s.mem := rfl
@[simp] theorem setDraws_draws : (s.setDraws n).draws = n := rfl
@[simp] theorem setDraws_schedule : (s.setDraws n).schedule = s.schedule := rfl
@[simp] theorem setDraws_load : (s.setDraws n).load = s.load := rfl
@[simp] theorem setDraws_reg (j : RegIdx) : (s.setDraws n).reg j = s.reg j := rfl

end

section
variable (s : State) (l : List HostOp)

@[simp] theorem setSchedule_x : (s.setSchedule l).x = s.x := rfl
@[simp] theorem setSchedule_I : (s.setSchedule l).I = s.I := rfl
@[simp] theorem setSchedule_pc : (s.setSchedule l).pc = s.pc := rfl
@[simp] theorem setSchedule_sp : (s.setSchedule l).sp = s.sp := rfl
@[simp] theorem setSchedule_stack : (s.setSchedule l).stack = s.stack := rfl
@[simp] theorem setSchedule_DT : (s.setSchedule l).DT = s.DT := rfl
@[simp] theorem setSchedule_ST : (s.setSchedule l).ST = s.ST := rfl
@[simp] theorem setSchedule_key : (s.setSchedule l).key = s.key := rfl
@[simp] theorem setSchedule_disp : (s.setSchedule l).disp = s.disp := rfl
@[simp] theorem setSchedule_redraw : (s.setSchedule l).redraw = s.redraw := rfl
@[simp] theorem setSchedule_sndEnded : (s.setSchedule l).sndEnded = s.sndEnded := rfl
@[simp] theorem setSchedule_err : (s.setSchedule l).err = s.err := rfl
@[simp] theorem setSchedule_mem : (s.setSchedule l).mem = s.mem := rfl
@[simp] theorem setSchedule_draws : (s.setSchedule l).draws = s.draws := rfl
@[simp] theorem setSchedule_schedule : (s.setSchedule l).schedule = l := rfl
@[simp] theorem setSchedule_load : (s.setSchedule l).load = s.load := rfl
@[simp] theorem setSchedule_reg (j : RegIdx) : (s.setSchedule l).reg j = s.reg j := rfl

end

section
variable (s : State) (p : LoadPhase)

@[simp] theorem setLoad_x : (s.setLoad p).x = s.x := rfl
@[simp] theorem setLoad_I : (s.setLoad p).I = s.I := rfl
@[simp] theorem setLoad_pc : (s.setLoad p).pc = s.pc := rfl
@[simp] theorem setLoad_sp : (s.setLoad p).sp = s.sp := rfl
@[simp] theorem setLoad_stack : (s.setLoad p).stack = s.stack := rfl
@[simp] theorem setLoad_DT : (s.setLoad p).DT = s.DT := rfl
@[simp] theorem setLoad_ST : (s.setLoad p).ST = s.ST := rfl
@[simp] theorem setLoad_key : (s.setLoad p).key = s.key := rfl
@[simp] theorem setLoad_disp : (s.setLoad p).disp = s.disp := rfl
@[simp] theorem setLoad_redraw : (s.setLoad p).redraw = s.redraw := rfl
@[simp] theorem setLoad_sndEnded : (s.setLoad p).sndEnded = s.sndEnded := rfl
@[simp] theorem setLoad_err : (s.setLoad p).err = s.err := rfl
@[simp] theorem setLoad_mem : (s.setLoad p).mem = s.mem := rfl
@[simp] theorem setLoad_draws : (s.setLoad p).draws = s.draws := rfl
@[simp] theorem setLoad_schedule : (s.setLoad p).schedule = s.schedule := rfl
@[simp] theorem setLoad_load : (s.setLoad p).load = p := rfl
@[simp] theorem setLoad_reg (j : RegIdx) : (s.setLoad p).reg j = s.reg j := rfl

end

/-- Reading a register after writing one. -/
@[simp] theorem setReg_reg (s : State) (i j : RegIdx) (v : Byte) :
    (s.setReg i v).reg j = if j = i then v else s.reg j := by
  simp only [State.reg, State.setReg, Vector.getElem_set, Fin.ext_iff, eq_comm]

/-- Reading a register of a register file written whole. -/
@[simp] theorem setRegs_reg (s : State) (r : Vector Byte 16) (j : RegIdx) : (s.setRegs r).reg j = r[j.val] := rfl

/-- The result and the flag of a flag-writing instruction: the flag wins where both name `x[0xF]` (R151). -/
@[simp] theorem setResultFlag_reg (s : State) (x j : RegIdx) (r : Byte) (f : Bool) :
    (s.setResultFlag x r f).reg j = if j = VF then flagByte f else if j = x then r else s.reg j := by
  simp [State.setResultFlag]

section
variable (s : State) (x : RegIdx) (r : Byte) (f : Bool)

@[simp] theorem setResultFlag_I : (s.setResultFlag x r f).I = s.I := rfl
@[simp] theorem setResultFlag_pc : (s.setResultFlag x r f).pc = s.pc := rfl
@[simp] theorem setResultFlag_sp : (s.setResultFlag x r f).sp = s.sp := rfl
@[simp] theorem setResultFlag_stack : (s.setResultFlag x r f).stack = s.stack := rfl
@[simp] theorem setResultFlag_DT : (s.setResultFlag x r f).DT = s.DT := rfl
@[simp] theorem setResultFlag_ST : (s.setResultFlag x r f).ST = s.ST := rfl
@[simp] theorem setResultFlag_key : (s.setResultFlag x r f).key = s.key := rfl
@[simp] theorem setResultFlag_disp : (s.setResultFlag x r f).disp = s.disp := rfl
@[simp] theorem setResultFlag_redraw : (s.setResultFlag x r f).redraw = s.redraw := rfl
@[simp] theorem setResultFlag_sndEnded : (s.setResultFlag x r f).sndEnded = s.sndEnded := rfl
@[simp] theorem setResultFlag_err : (s.setResultFlag x r f).err = s.err := rfl
@[simp] theorem setResultFlag_mem : (s.setResultFlag x r f).mem = s.mem := rfl
@[simp] theorem setResultFlag_draws : (s.setResultFlag x r f).draws = s.draws := rfl
@[simp] theorem setResultFlag_schedule : (s.setResultFlag x r f).schedule = s.schedule := rfl
@[simp] theorem setResultFlag_load : (s.setResultFlag x r f).load = s.load := rfl

end

end Sys2Proof.Machine
end

