-- ==== Sys2Proof/Laws/Ops.lean ====
section
/-! SUPPORT. One lemma per shared operation that says what it answers; later proofs cite these. -/

namespace Sys2Proof.Machine

/-! ## The ends of an instruction -/

theorem advance_eq (s : State) : advance s = .next (s.setPc (s.pc + 2)) := rfl

theorem skipIf_eq (c : Bool) (s : State) : skipIf c s = .next (s.setPc (s.pc + (if c then 4 else 2))) := rfl

theorem goTo_eq (a : Word) (s : State) : goTo a s = .next (s.setPc a) := rfl

theorem raise_eq (e : ErrorValue) (s : State) : raise e s = .next (s.setErr (some e)) := rfl

/-- A checked effect: the effect where the check finds nothing, else the error's entry. -/
theorem checked_next {e : Option ErrorValue} {s t : State} {k : Result} (h : checked e s k = .next t) :
    (e = none ∧ k = .next t) ∨ ∃ v, e = some v ∧ t = s.setErr (some v) := by
  cases e with
  | none => exact .inl ⟨rfl, h⟩
  | some v =>
    refine .inr ⟨v, rfl, ?_⟩
    simpa [checked, raise] using h.symm

/-! ## The call stack -/

theorem push_of_lt {s : State} (h : s.sp.val < 16) (a : Word) :
    s.push a = some { s with stack := s.stack.set s.sp.val a, sp := ⟨s.sp.val + 1, by omega⟩ } := by
  simp [State.push, h]

theorem push_of_full {s : State} (h : s.sp.val = 16) (a : Word) : s.push a = none := by
  simp [State.push, h]

theorem pop_of_pos {s : State} (h : 0 < s.sp.val) :
    s.pop = some ({ s with sp := ⟨s.sp.val - 1, by omega⟩ }, s.stack[s.sp.val - 1]) := by
  simp [State.pop, h]

theorem pop_of_empty {s : State} (h : s.sp.val = 0) : s.pop = none := by
  simp [State.pop, h]

/-! ## The checks -/

theorem rangeError_eq_none {I : Word} {n : Nat} : rangeError I n = none ↔ n = 0 ∨ I.toNat + n ≤ Config.memSize := by
  unfold rangeError
  split <;> simp [Config.memSize] <;> omega

theorem rangeError_eq_some {I : Word} {n : Nat} {e : ErrorValue} (h : rangeError I n = some e) :
    1 ≤ n ∧ Config.memSize < I.toNat + n ∧ e = .memOutOfRange (max I.toNat 0x1000) := by
  unfold rangeError at h
  split at h
  · next hc => exact ⟨hc.1, by simp [Config.memSize]; omega, by simpa using h.symm⟩
  · simp at h

theorem keyError_eq_none {v : Byte} : keyError v = none ↔ v.toNat ≤ 15 := by
  unfold keyError
  split <;> simp <;> omega

theorem keyError_of_gt {v : Byte} (h : 15 < v.toNat) : keyError v = some (.keyIndexOutOfRange v) := by
  simp [keyError, h]

theorem fetchError_eq_none {pc : Word} : fetchError pc = none ↔ pc.toNat ≤ 0xFFE ∧ pc.getLsbD 0 = false := by
  unfold fetchError
  split
  · simp; omega
  · split <;> simp_all

/-! ## Block copies and digits -/

@[simp] theorem regsUpTo_length (s : State) (x : RegIdx) : (regsUpTo s x).length = x.val + 1 := by
  have := x.isLt
  simp [regsUpTo]

theorem regsUpTo_getD (s : State) (x i : RegIdx) (h : i ≤ x) : (regsUpTo s x).getD i.val 0 = s.reg i := by
  have h2 : i.val < x.val + 1 := Nat.lt_succ_of_le h
  simp [regsUpTo, State.reg, h2]

theorem regsLoaded_get (s : State) (x i : RegIdx) :
    (regsLoaded s x)[i.val] = if i ≤ x then readByte s.mem (s.I.toNat + i.val) else s.reg i := by
  simp only [regsLoaded, Vector.getElem_ofFn, Fin.le_def]

@[simp] theorem bcdDigits_length (v : Byte) : (bcdDigits v).length = 3 := rfl

/-! ## Keys -/

theorem keyDown_eq (s : State) (v : Byte) (h : v.toNat < 16) : keyDown s v = s.key[v.toNat] := by
  simp [keyDown, h]

theorem lowestKey_eq_none {s : State} : lowestKey s = none ↔ ∀ k : KeyIdx, s.key[k.val] = false := by
  simp only [lowestKey, List.findIdx?_eq_none_iff, Vector.mem_toList_iff, id_eq]
  constructor
  · intro h k; exact h _ (Vector.getElem_mem _)
  · intro h b hb
    obtain ⟨i, hi, rfl⟩ := Vector.mem_iff_getElem.mp hb
    exact h ⟨i, hi⟩

/-- The key `wait-key` finds is down, and no lower one is (R223). -/
theorem lowestKey_eq_some {s : State} {k : Nat} (h : lowestKey s = some k) :
    ∃ hk : k < 16, s.key[k] = true ∧ ∀ j : KeyIdx, j.val < k → s.key[j.val] = false := by
  obtain ⟨hk, hd, hlow⟩ := List.findIdx?_eq_some_iff_getElem.mp h
  have hk' : k < 16 := by simpa using hk
  refine ⟨hk', by simpa using hd, fun j hj => ?_⟩
  simpa using hlow j.val hj

/-! ## The display -/

theorem cellAt_toggleCell (d : Display) (r r' : Fin 32) (c c' : Fin 64) :
    cellAt (toggleCell d r c) r' c' = if r' = r ∧ c' = c then !cellAt d r c else cellAt d r' c' := by
  simp only [cellAt, toggleCell, Vector.getElem_set, Fin.ext_iff]
  by_cases hr : r.val = r'.val
  · by_cases hc : c.val = c'.val
    · simp [hr, hc]
    · have hc' : ¬c'.val = c.val := fun h => hc h.symm
      simp [hr, hc, hc']
  · have hr' : ¬r'.val = r.val := fun h => hr h.symm
    simp [hr, hr']

@[simp] theorem cellAt_darkDisplay (r : Fin 32) (c : Fin 64) : cellAt darkDisplay r c = false := by
  simp [cellAt, darkDisplay]

/-! ## Keys and the host -/

theorem setKey_get (s : State) (k j : KeyIdx) (b : Bool) :
    (s.setKey k b).key[j.val] = if j = k then b else s.key[j.val] := by
  simp only [setKey_key, Vector.getElem_set, Fin.ext_iff, eq_comm]

/-- What reset leaves of the old state: the draw counter and the schedule (R290). -/
theorem resetOp_eq (font : Vector Byte 80) (s : State) :
    resetOp font s =
      { State.reset with mem := writeBytes [] 0 font.toList, draws := s.draws, schedule := s.schedule } := rfl

/-- A load that succeeds: the image at its place, the time for loading over (R293). -/
theorem loadProgram_of_le {image : List Byte} (h : image.length ≤ Config.maxImage) (s : State) :
    loadProgram image s = ((s.setMem (writeBytes s.mem Config.progBase image)).setLoad .closed, true) := if_pos h

/-- A load that fails writes nothing (R293). -/
theorem loadProgram_of_gt {image : List Byte} (h : Config.maxImage < image.length) (s : State) :
    loadProgram image s = (s.setLoad .failed, false) := if_neg (Nat.not_le.mpr h)

/-- A reset leaves memory in canonical form. -/
theorem memWf_resetOp (font : Vector Byte 80) (s : State) : memWf (resetOp font s).mem :=
  memWf_writeBytes memWf_nil 0 font.toList

end Sys2Proof.Machine
end

