-- ==== Sys2Proof/Laws/Display.lean ====
section
/-! SUPPORT. What the loops of `draw` do to the display, said once. -/

namespace Sys2Proof.Machine

/-- The first `m` columns of a sprite byte at display row `r`, column `cx`, put a 1 bit on the cell (R202). -/
def bitsCover (r : Fin 32) (cx : Nat) (b : Byte) (m : Nat) (r' : Fin 32) (c : Fin 64) : Prop :=
  r' = r ∧ ∃ k < m, c = wrapCol (cx + k) ∧ b.getLsbD (7-k) = true

/-- The 8 columns of a sprite byte fall on different cells. -/
theorem wrapCol_inj (cx j k : Nat) (hj : j < 8) (hk : k < 8) (h : wrapCol (cx+j) = wrapCol (cx+k)) : j = k := by
  simp [wrapCol, Config.dispW, Fin.ext_iff] at h; omega

/-- The inner loop: covered cells toggled, the others kept, a hit exactly when a lit cell was covered. -/
theorem drawBits_cells (r cx b) (cv : Canvas) (m : Nat) (hm : m ≤ 8) :
  let out := (List.range m).foldl (drawBit r cx b) cv
  (∀ r' c, bitsCover r cx b m r' c → cellAt out.1 r' c = !cellAt cv.1 r' c) ∧
  (∀ r' c, ¬ bitsCover r cx b m r' c → cellAt out.1 r' c = cellAt cv.1 r' c) ∧
  (out.2 = true ↔ cv.2 = true ∨ ∃ r' c, bitsCover r cx b m r' c ∧ cellAt cv.1 r' c = true) := by
  induction m with
  | zero => simp [bitsCover]
  | succ m ih =>
    obtain ⟨h1, h2, h3⟩ := ih (by omega)
    simp only [List.range_succ, List.foldl_append, List.foldl_cons, List.foldl_nil]
    set o := (List.range m).foldl (drawBit r cx b) cv with ho
    have fresh : ¬ bitsCover r cx b m r (wrapCol (cx + m)) := by
      rintro ⟨_, k, hk, h, _⟩; have := wrapCol_inj cx m k (by omega) (by omega) h; omega
    have hsucc : ∀ r' c, bitsCover r cx b (m+1) r' c ↔ bitsCover r cx b m r' c ∨ (r' = r ∧ c = wrapCol (cx+m) ∧ b.getLsbD (7-m) = true) := by
      intro r' c; constructor
      · rintro ⟨rfl, k, hk, h, hb⟩
        rcases Nat.lt_succ_iff_lt_or_eq.mp hk with hk | rfl
        · exact .inl ⟨rfl, k, hk, h, hb⟩
        · exact .inr ⟨rfl, h, hb⟩
      · rintro (⟨rfl, k, hk, h, hb⟩ | ⟨rfl, h, hb⟩)
        · exact ⟨rfl, k, by omega, h, hb⟩
        · exact ⟨rfl, m, by omega, h, hb⟩
    unfold drawBit
    by_cases hb : b.getLsbD (7-m) = true
    · simp only [hb, if_true]
      refine ⟨?_, ?_, ?_⟩
      · intro r' c hc
        rw [cellAt_toggleCell]
        rcases (hsucc r' c).mp hc with hc | ⟨rfl, rfl, _⟩
        · rw [if_neg, h1 _ _ hc]; rintro ⟨rfl, rfl⟩; exact fresh hc
        · simp [h2 _ _ fresh]
      · intro r' c hc
        rw [hsucc] at hc; push Not at hc
        rw [cellAt_toggleCell, if_neg, h2 _ _ hc.1]; rintro ⟨rfl, rfl⟩; exact hc.2 rfl rfl hb
      · simp only [Bool.or_eq_true, h3, h2 _ _ fresh]
        constructor
        · rintro ((h | ⟨r', c, h, h'⟩) | h)
          · exact .inl h
          · exact .inr ⟨r', c, (hsucc _ _).mpr (.inl h), h'⟩
          · exact .inr ⟨_, _, (hsucc _ _).mpr (.inr ⟨rfl, rfl, hb⟩), h⟩
        · rintro (h | ⟨r', c, h, h'⟩)
          · exact .inl (.inl h)
          · rcases (hsucc _ _).mp h with h | ⟨rfl, rfl, _⟩
            · exact .inl (.inr ⟨_, _, h, h'⟩)
            · exact .inr h'
    · have cs : ∀ r' c, bitsCover r cx b (m+1) r' c ↔ bitsCover r cx b m r' c := by intro r' c; rw [hsucc]; simp [hb]
      simp only [hb, if_false, Bool.false_eq_true]
      simp only [cs]; exact ⟨h1, h2, h3⟩

/-- Some byte of the sprite, drawn from row `cy`, puts a 1 bit on the cell (R202). -/
def rowsCover (cx cy : Nat) (l : List Byte) (r : Fin 32) (c : Fin 64) : Prop :=
  ∃ j, ∃ h : j < l.length, bitsCover (wrapRow (cy + j)) cx l[j] 8 r c

/-- The outer loop, for at most 32 rows: covered cells toggled, the others kept, a hit exactly when a lit cell was
covered. -/
theorem drawRows_cells (cx : Nat) (l : List Byte) : ∀ (cy : Nat) (cv : Canvas), l.length ≤ 32 →
  (∀ r' c, rowsCover cx cy l r' c → cellAt (drawRows cx cy l cv).1 r' c = !cellAt cv.1 r' c) ∧
  (∀ r' c, ¬ rowsCover cx cy l r' c → cellAt (drawRows cx cy l cv).1 r' c = cellAt cv.1 r' c) ∧
  ((drawRows cx cy l cv).2 = true ↔ cv.2 = true ∨ ∃ r' c, rowsCover cx cy l r' c ∧ cellAt cv.1 r' c = true) := by
  induction l with
  | nil => intro cy cv _; simp [drawRows, rowsCover]
  | cons b rest ih =>
    intro cy cv hl
    simp only [List.length_cons] at hl
    obtain ⟨h1, h2, h3⟩ := ih (cy+1) (drawRow (wrapRow cy) cx b cv) (by omega)
    obtain ⟨g1, g2, g3⟩ := drawBits_cells (wrapRow cy) cx b cv 8 (by omega)
    have cs : ∀ r c, rowsCover cx cy (b :: rest) r c ↔ bitsCover (wrapRow cy) cx b 8 r c ∨ rowsCover cx (cy+1) rest r c := by
      intro r c; constructor
      · rintro ⟨j, hj, h⟩
        cases j with
        | zero => exact .inl h
        | succ j => refine .inr ⟨j, by simpa using hj, ?_⟩; rw [Nat.add_assoc, Nat.add_comm 1 j]; exact h
      · rintro (h | ⟨j, hj, h⟩)
        · exact ⟨0, by simp, h⟩
        · refine ⟨j+1, by simpa using hj, ?_⟩; rw [Nat.add_assoc, Nat.add_comm 1 j] at h; exact h
    have dis : ∀ r c, bitsCover (wrapRow cy) cx b 8 r c → ¬ rowsCover cx (cy+1) rest r c := by
      rintro r c ⟨rfl, _⟩ ⟨j, hj, h, _⟩
      simp [wrapRow, Config.dispH, Fin.ext_iff] at h; omega
    simp only [drawRows]
    refine ⟨?_, ?_, ?_⟩
    · intro r c hc
      rcases (cs r c).mp hc with hc | hc
      · rw [h2 _ _ (dis _ _ hc)]; exact g1 _ _ hc
      · rw [h1 _ _ hc]; congr 1; exact g2 _ _ (fun h => dis _ _ h hc)
    · intro r c hc; rw [cs] at hc; push Not at hc
      rw [h2 _ _ hc.2]; exact g2 _ _ hc.1
    · rw [h3]; unfold drawRow; rw [g3]
      constructor
      · rintro ((h | ⟨r, c, h, h'⟩) | ⟨r, c, h, h'⟩)
        · exact .inl h
        · exact .inr ⟨r, c, (cs _ _).mpr (.inl h), h'⟩
        · refine .inr ⟨r, c, (cs _ _).mpr (.inr h), ?_⟩; rw [← h']; exact (g2 _ _ (fun hh => dis _ _ hh h)).symm
      · rintro (h | ⟨r, c, h, h'⟩)
        · exact .inl (.inl h)
        · rcases (cs _ _).mp h with h | h
          · exact .inl (.inr ⟨r, c, h, h'⟩)
          · refine .inr ⟨r, c, h, ?_⟩; rw [← h']; exact (g2 _ _ (fun hh => dis _ _ hh h))

end Sys2Proof.Machine
end

