-- ==== Sys2Proof/Laws/PerInstr.lean ====
section
/-! SUPPORT. A statement about every instruction as syntax, one lemma per constructor: the word it encodes to carries the
primary opcode its row of the opcode map has (R84, R86, R94). -/

namespace Sys2Proof.Laws.FamilyCode

/-- The primary opcode `w[15:12]` of an instruction's row (R86). -/
def familyOf : Instr → BitVec 4
  | .clearScreen => 0x0#4
  | .ret => 0x0#4
  | .jump _ => 0x1#4
  | .call _ => 0x2#4
  | .skipEqImm _ _ => 0x3#4
  | .skipNeImm _ _ => 0x4#4
  | .skipEqReg _ _ => 0x5#4
  | .loadImm _ _ => 0x6#4
  | .addImm _ _ => 0x7#4
  | .loadReg _ _ => 0x8#4
  | .orReg _ _ => 0x8#4
  | .andReg _ _ => 0x8#4
  | .xorReg _ _ => 0x8#4
  | .addReg _ _ => 0x8#4
  | .subReg _ _ => 0x8#4
  | .shiftRight _ => 0x8#4
  | .subnReg _ _ => 0x8#4
  | .shiftLeft _ => 0x8#4
  | .skipNeReg _ _ => 0x9#4
  | .setIndex _ => 0xA#4
  | .jumpOffset _ => 0xB#4
  | .random _ _ => 0xC#4
  | .draw _ _ _ => 0xD#4
  | .skipKeyPressed _ => 0xE#4
  | .skipKeyNotPressed _ => 0xE#4
  | .loadDelay _ => 0xF#4
  | .waitKey _ => 0xF#4
  | .setDelay _ => 0xF#4
  | .setSound _ => 0xF#4
  | .addIndex _ => 0xF#4
  | .fontAddress _ => 0xF#4
  | .storeBcd _ => 0xF#4
  | .storeRegisters _ => 0xF#4
  | .loadRegisters _ => 0xF#4

/-- The encoded word lies in the instruction's family. -/
def Statement (i : Instr) : Prop := opField (encode i) = familyOf i

theorem clearScreen : Statement .clearScreen := by show opField 0x00E0#16 = _; decide

theorem ret : Statement .ret := by show opField 0x00EE#16 = _; decide

theorem jump (addr : BitVec 12) : Statement (.jump addr) := opField_encodeNNN ..

theorem call (addr : BitVec 12) : Statement (.call addr) := opField_encodeNNN ..

theorem skipEqImm (x : RegIdx) (kk : Byte) : Statement (.skipEqImm x kk) := opField_encodeXKK ..

theorem skipNeImm (x : RegIdx) (kk : Byte) : Statement (.skipNeImm x kk) := opField_encodeXKK ..

theorem skipEqReg (x : RegIdx) (y : RegIdx) : Statement (.skipEqReg x y) := opField_encodeXYN ..

theorem loadImm (x : RegIdx) (kk : Byte) : Statement (.loadImm x kk) := opField_encodeXKK ..

theorem addImm (x : RegIdx) (kk : Byte) : Statement (.addImm x kk) := opField_encodeXKK ..

theorem loadReg (x : RegIdx) (y : RegIdx) : Statement (.loadReg x y) := opField_encodeXYN ..

theorem orReg (x : RegIdx) (y : RegIdx) : Statement (.orReg x y) := opField_encodeXYN ..

theorem andReg (x : RegIdx) (y : RegIdx) : Statement (.andReg x y) := opField_encodeXYN ..

theorem xorReg (x : RegIdx) (y : RegIdx) : Statement (.xorReg x y) := opField_encodeXYN ..

theorem addReg (x : RegIdx) (y : RegIdx) : Statement (.addReg x y) := opField_encodeXYN ..

theorem subReg (x : RegIdx) (y : RegIdx) : Statement (.subReg x y) := opField_encodeXYN ..

theorem shiftRight (x : RegIdx) : Statement (.shiftRight x) := opField_encodeXYN ..

theorem subnReg (x : RegIdx) (y : RegIdx) : Statement (.subnReg x y) := opField_encodeXYN ..

theorem shiftLeft (x : RegIdx) : Statement (.shiftLeft x) := opField_encodeXYN ..

theorem skipNeReg (x : RegIdx) (y : RegIdx) : Statement (.skipNeReg x y) := opField_encodeXYN ..

theorem setIndex (addr : BitVec 12) : Statement (.setIndex addr) := opField_encodeNNN ..

theorem jumpOffset (addr : BitVec 12) : Statement (.jumpOffset addr) := opField_encodeNNN ..

theorem random (x : RegIdx) (kk : Byte) : Statement (.random x kk) := opField_encodeXKK ..

theorem draw (x : RegIdx) (y : RegIdx) (n : Nat) : Statement (.draw x y n) := opField_encodeXYN ..

theorem skipKeyPressed (x : RegIdx) : Statement (.skipKeyPressed x) := opField_encodeXKK ..

theorem skipKeyNotPressed (x : RegIdx) : Statement (.skipKeyNotPressed x) := opField_encodeXKK ..

theorem loadDelay (x : RegIdx) : Statement (.loadDelay x) := opField_encodeXKK ..

theorem waitKey (x : RegIdx) : Statement (.waitKey x) := opField_encodeXKK ..

theorem setDelay (x : RegIdx) : Statement (.setDelay x) := opField_encodeXKK ..

theorem setSound (x : RegIdx) : Statement (.setSound x) := opField_encodeXKK ..

theorem addIndex (x : RegIdx) : Statement (.addIndex x) := opField_encodeXKK ..

theorem fontAddress (x : RegIdx) : Statement (.fontAddress x) := opField_encodeXKK ..

theorem storeBcd (x : RegIdx) : Statement (.storeBcd x) := opField_encodeXKK ..

theorem storeRegisters (x : RegIdx) : Statement (.storeRegisters x) := opField_encodeXKK ..

theorem loadRegisters (x : RegIdx) : Statement (.loadRegisters x) := opField_encodeXKK ..

end Sys2Proof.Laws.FamilyCode
end

