-- ==== Sys2Proof/Laws/Step.lean ====
section
/-! SUPPORT. What a step, a cycle and a run answer, said once: the schedule, the halt test, the fetch and the dispatch. -/

namespace Sys2Proof.Machine

/-! ## Runs -/

/-- A run of `k + 1` steps whose first step goes on. -/
theorem run_succ (k : Nat) (M : Host.Core) (s t : M.State) (h : M.step s = .next t) :
    M.run (k + 1) s = M.run k t := by
  rw [Host.Core.run.eq_def]; simp [h]

/-! ## A step -/

/-- With nothing scheduled a step is the host's cycle. -/
theorem step_of_nil {s : State} (h : s.schedule = []) : step s = hostCycle s := by simp [step, h]

/-- With an operation scheduled a step is that operation, taken off the list first. -/
theorem step_of_cons {s : State} {op : HostOp} {rest : List HostOp} (h : s.schedule = op :: rest) :
    step s = hostStep op (s.setSchedule rest) := by simp [step, h]

/-- The host's cycle: refused after a failed load, else a cycle with the time for loading over. -/
theorem hostCycle_cases (s : State) :
    (s.load = .failed ∧ hostCycle s = .refused .cycleAfterFailedLoad) ∨
    (s.load ≠ .failed ∧ hostCycle s = cycle (s.setLoad .closed)) := by
  unfold hostCycle; split <;> simp_all

/-- The host's load: refused once the time for loading is over, else its answer's state. -/
theorem hostLoad_cases (image : List Byte) (s : State) :
    (s.load = .closed ∧ hostLoad image s = .refused .loadWithoutReset) ∨
    (s.load ≠ .closed ∧ hostLoad image s = .next (loadProgram image s).1) := by
  unfold hostLoad; split <;> simp_all

/-- A load record that is set already. -/
theorem setLoad_of_eq {s : State} {p : LoadPhase} (h : s.load = p) : s.setLoad p = s := by subst h; rfl

/-! ## A cycle (R110 to R116) -/

/-- A halted cycle changes nothing (R116). -/
theorem cycle_of_halted {s : State} {e : ErrorValue} (h : s.err = some e) : cycle s = .next s := by simp [cycle, h]

/-- A healthy cycle: the fetch checks, then the fetched word (R111, R113). -/
theorem cycle_of_healthy {s : State} (h : s.err = none) :
    cycle s = checked (fetchError s.pc) s (decodeAndRun s) := by simp [cycle, h]

/-- A healthy cycle that can fetch runs the fetched word. -/
theorem cycle_of_fetchable {s : State} (h : s.err = none) (hf : fetchError s.pc = none) :
    cycle s = decodeAndRun s := by simp [cycle, h, hf, checked]

theorem decodeAndRun_of_ok {s : State} {i : Instr} (h : decodeWord (fetchWord s) = .ok i) :
    decodeAndRun s = exec i s := by simp [decodeAndRun, h]

theorem decodeAndRun_of_error {s : State} {e : DecodeError} (h : decodeWord (fetchWord s) = .error e) :
    decodeAndRun s = raise (.unknownInstruction (fetchWord s)) s := by simp [decodeAndRun, h]

/-! ## The two instructions on the call stack (R130, R132) -/

/-- A `return` that answers a state either raised or popped. -/
theorem exec_ret_cases {s t : State} (h : exec .ret s = .next t) :
    (s.sp.val = 0 ∧ t = s.setErr (some (.stackUnderflow s.pc))) ∨
    ∃ _ : 0 < s.sp.val, t = ({ s with sp := ⟨s.sp.val - 1, by omega⟩ } : State).setPc s.stack[s.sp.val - 1] := by
  by_cases hz : s.sp.val = 0
  · left; simp only [exec, execReturn, pop_of_empty hz, raise] at h; cases h; exact ⟨hz, rfl⟩
  · right
    have hp : 0 < s.sp.val := by omega
    simp only [exec, execReturn, pop_of_pos hp, goTo] at h; cases h; exact ⟨hp, rfl⟩

/-- A `call` that answers a state either raised or pushed. -/
theorem exec_call_cases {addr : BitVec 12} {s t : State} (h : exec (.call addr) s = .next t) :
    (s.sp.val = 16 ∧ t = s.setErr (some (.stackOverflow s.pc))) ∨
    ∃ _ : s.sp.val < 16,
      t = ({ s with stack := s.stack.set s.sp.val (s.pc + 2), sp := ⟨s.sp.val + 1, by omega⟩ } : State).setPc
        (addrOperand addr) := by
  by_cases hz : s.sp.val = 16
  · left; simp only [exec, execCall, push_of_full hz, raise] at h; cases h; exact ⟨hz, rfl⟩
  · right
    have hp : s.sp.val < 16 := by omega
    simp only [exec, execCall, push_of_lt hp, goTo] at h; cases h; exact ⟨hp, rfl⟩

end Sys2Proof.Machine
end

