-- ==== Sys2Proof/Tests/Slice0.lean ====
section
/-! SUPPORT. The model's own tests. Words are written out from the encodings of 30_encoding.md, and expected results are
those of the vectors of spec/95_test_vectors.md, named in each test (V-CF-1 and so on). After them stand the witnesses:
concrete states that meet the hypotheses of each statement together. -/

namespace Sys2Proof.Tests

open Sys2Proof.Machine

/-- What a reader sees of the state a result leaves, if it is a next state. -/
def after {α : Type} (r : Result) (f : State → α) : Option α :=
  match r with
  | .next t => some (f t)
  | .fault _ => none
  | .refused _ => none

/-- The state with an instruction word laid out big-endian at its `pc` (95_test_vectors.md, Conventions). -/
def placed (w : Word) (s : State) : State := s.setMem (writeBytes s.mem s.pc.toNat (bytesOfWord w))

/-- One cycle on that state. -/
def one {α : Type} (w : Word) (s : State) (f : State → α) : Option α := after (cycle (placed w s)) f

/-- The reset state with bytes in memory from an address. -/
def withBytes (a : Nat) (l : List Byte) : State := State.reset.setMem (writeBytes [] a l)

/-- The reset state with a number of frames in use. -/
def withFrames (n : Fin 17) : State := { State.reset with sp := n }

/-! ## Well-formedness (R83) -/

/-- The one operand that can be out of range: a sprite height of 16 is refused, 15 is not. -/
theorem test_illFormed_draw : (Instr.draw 0 1 16).wellFormed = false ∧ (Instr.draw 0 1 15).wellFormed = true := by decide

/-! ## Decoding: every constructor, its word written out from R82 and R86 -/

theorem test_decode_control :
    decodeWord 0b0000000011101110#16 = .ok .ret ∧
    decodeWord 0b0001001010100100#16 = .ok (.jump 0x2A4) ∧
    decodeWord 0b0010001100000000#16 = .ok (.call 0x300) ∧
    decodeWord 0b0011101001000010#16 = .ok (.skipEqImm 10 0x42) ∧
    decodeWord 0b0100101001000010#16 = .ok (.skipNeImm 10 0x42) ∧
    decodeWord 0b0101000100100111#16 = .ok (.skipEqReg 1 2) ∧
    decodeWord 0b1001000100101111#16 = .ok (.skipNeReg 1 2) ∧
    decodeWord 0b1011111111111111#16 = .ok (.jumpOffset 0xFFF) := by decide

theorem test_decode_alu :
    decodeWord 0b0110101001000010#16 = .ok (.loadImm 10 0x42) ∧
    decodeWord 0b0111101000000001#16 = .ok (.addImm 10 0x01) ∧
    decodeWord 0b1000000100100000#16 = .ok (.loadReg 1 2) ∧
    decodeWord 0b1000000100100001#16 = .ok (.orReg 1 2) ∧
    decodeWord 0b1000000100100010#16 = .ok (.andReg 1 2) ∧
    decodeWord 0b1000000100100011#16 = .ok (.xorReg 1 2) ∧
    decodeWord 0b1000000100100100#16 = .ok (.addReg 1 2) ∧
    decodeWord 0b1000000100100101#16 = .ok (.subReg 1 2) ∧
    decodeWord 0b1000000100100110#16 = .ok (.shiftRight 1) ∧
    decodeWord 0b1000000100100111#16 = .ok (.subnReg 1 2) ∧
    decodeWord 0b1000000100101110#16 = .ok (.shiftLeft 1) ∧
    decodeWord 0b1100000100001111#16 = .ok (.random 1 0x0F) := by decide

theorem test_decode_index :
    decodeWord 0b1010000100100011#16 = .ok (.setIndex 0x123) ∧
    decodeWord 0b1111001000011110#16 = .ok (.addIndex 2) ∧
    decodeWord 0b1111001100101001#16 = .ok (.fontAddress 3) ∧
    decodeWord 0b1111011100110011#16 = .ok (.storeBcd 7) ∧
    decodeWord 0b1111001001010101#16 = .ok (.storeRegisters 2) ∧
    decodeWord 0b1111001001100101#16 = .ok (.loadRegisters 2) := by decide

theorem test_decode_display :
    decodeWord 0b0000000011100000#16 = .ok .clearScreen ∧
    decodeWord 0b1101000100100101#16 = .ok (.draw 1 2 5) := by decide

theorem test_decode_keysTimers :
    decodeWord 0b1110010110011110#16 = .ok (.skipKeyPressed 5) ∧
    decodeWord 0b1110010110100001#16 = .ok (.skipKeyNotPressed 5) ∧
    decodeWord 0b1111000100000111#16 = .ok (.loadDelay 1) ∧
    decodeWord 0b1111001000001010#16 = .ok (.waitKey 2) ∧
    decodeWord 0b1111000000010101#16 = .ok (.setDelay 0) ∧
    decodeWord 0b1111010000011000#16 = .ok (.setSound 4) := by decide

/-- V-ERR-6 to V-ERR-17: words outside the map. -/
theorem test_decode_unknown :
    [0x0000#16, 0x00E1#16, 0x01E0#16, 0x0FFF#16, 0x8008#16, 0x812F#16, 0xE19F#16, 0xF000#16, 0xF1FF#16, 0xF075#16,
      0xF030#16, 0xF29E#16].all (fun w => decide (decodeWord w = .error (.unknownInstruction w))) = true := by decide

/-- The host's table words, and a byte list too short for a word. -/
theorem test_decodeTableWord :
    decodeTableWord 16 0x8014 = some (.addReg 0 1) ∧ decodeTableWord 16 0x8008 = none ∧
    decodeBytes [0x12#8] = .error .truncated := by decide

/-! ## One cycle per vector -/

theorem test_V_CF_2 : one 0x1200 State.reset id = some (placed 0x1200 State.reset) := by decide

theorem test_V_CF_26 : one 0xBFFF (State.reset.setReg 0 0xFF) (fun t => t.pc) = some 0x10FE := by decide

theorem test_V_CF_27 :
    one 0xB300 ((State.reset.setReg 0 0x01).setReg 3 0x80) (fun t => t.pc) =
      some 0x0301 := by decide

theorem test_V_CF_6 :
    one 0x2300 (withFrames 15) (fun t => (t.pc, t.sp, t.stack[15])) =
      some (0x0300, 16, 0x0202) := by decide

theorem test_V_CF_7 :
    one 0x2300 (withFrames 16) (fun t => (t.pc, t.sp, t.err)) =
      some (0x0200, 16, some (.stackOverflow 0x0200)) := by decide

theorem test_V_CF_10 :
    one 0x00EE { State.reset with sp := 2, stack := (State.reset.stack.set 0 0x0204).set 1 0x030A }
      (fun t => (t.pc, t.sp)) =
      some (0x030A, 1) := by decide

theorem test_V_CF_11 :
    one 0x00EE State.reset (fun t => (t.pc, t.sp, t.err)) =
      some (0x0200, 0, some (.stackUnderflow 0x0200)) := by decide

theorem test_V_CF_13 : one 0x3A42 (State.reset.setReg 10 0x41) (fun t => t.pc) = some 0x0202 := by decide

theorem test_V_CF_28 :
    one 0x3000 (State.reset.setPc 0x0FFC) (fun t => (t.pc, t.err)) =
      some (0x1000, none) := by decide

theorem test_V_CF_14 : one 0x4A42 (State.reset.setReg 10 0x41) (fun t => t.pc) = some 0x0204 := by decide

theorem test_V_CF_15 : one 0x4A42 (State.reset.setReg 10 0x42) (fun t => t.pc) = some 0x0202 := by decide

theorem test_V_CF_17 :
    one 0x5120 ((State.reset.setReg 1 0x07).setReg 2 0x08) (fun t => t.pc) =
      some 0x0202 := by decide

theorem test_V_CF_18 :
    one 0x5127 ((State.reset.setReg 1 0x07).setReg 2 0x07) (fun t => t.pc) =
      some 0x0204 := by decide

theorem test_V_CF_21 :
    one 0x9120 ((State.reset.setReg 1 0x07).setReg 2 0x07) (fun t => t.pc) =
      some 0x0202 := by decide

theorem test_V_CF_23 :
    one 0x912F ((State.reset.setReg 1 0x07).setReg 2 0x08) (fun t => t.pc) =
      some 0x0204 := by decide

theorem test_V_CF_29 :
    one 0x6001 (State.reset.setPc 0x0FFE) (fun t => (t.reg 0, t.pc, t.err)) =
      some (0x01, 0x1000, none) := by decide

theorem test_V_ALU_2 :
    one 0x7A01 ((State.reset.setReg 10 0xFF).setReg 15 0x01) (fun t => (t.reg 10, t.reg 15, t.pc)) =
      some (0x00, 0x01, 0x0202) := by decide

theorem test_V_ALU_4 :
    one 0x8120 (((State.reset.setReg 1 0x11).setReg 2 0x22).setReg 15 0x01) (fun t => (t.reg 1, t.reg 2, t.reg 15)) =
      some (0x22, 0x22, 0x01) := by decide

theorem test_V_ALU_5 :
    one 0x8121 (((State.reset.setReg 1 0xF0).setReg 2 0x3C).setReg 15 0x01) (fun t => (t.reg 1, t.reg 15)) =
      some (0xFC, 0x01) := by decide

theorem test_V_ALU_6 :
    one 0x8122 (((State.reset.setReg 1 0xF0).setReg 2 0x3C).setReg 15 0x01) (fun t => (t.reg 1, t.reg 15)) =
      some (0x30, 0x01) := by decide

theorem test_V_ALU_7 :
    one 0x8123 (((State.reset.setReg 1 0xF0).setReg 2 0x3C).setReg 15 0x01) (fun t => (t.reg 1, t.reg 15)) =
      some (0xCC, 0x01) := by decide

theorem test_V_ALU_9 :
    one 0x8125 ((State.reset.setReg 1 0x33).setReg 2 0x33) (fun t => (t.reg 1, t.reg 15)) =
      some (0x00, 0x01) := by decide

theorem test_V_ALU_11 :
    one 0x8F15 ((State.reset.setReg 15 0x0A).setReg 1 0x03) (fun t => (t.reg 1, t.reg 15)) =
      some (0x03, 0x01) := by decide

theorem test_V_ALU_14 :
    one 0x8127 (((State.reset.setReg 1 0x0A).setReg 2 0x03).setReg 15 0x01) (fun t => (t.reg 1, t.reg 15)) =
      some (0xF9, 0x00) := by decide

theorem test_V_ALU_32 :
    one 0x8F17 ((State.reset.setReg 15 0x0A).setReg 1 0x03) (fun t => t.reg 15) =
      some 0x00 := by decide

theorem test_V_ALU_17 :
    one 0x8014 ((State.reset.setReg 0 0xFF).setReg 15 0x01) (fun t => (t.reg 0, t.reg 15)) =
      some (0xFF, 0x00) := by decide

theorem test_V_ALU_19 :
    one 0x8F14 ((State.reset.setReg 15 0xFF).setReg 1 0x02) (fun t => t.reg 15) =
      some 0x01 := by decide

theorem test_V_ALU_25 : one 0x8F06 (State.reset.setReg 15 0x03) (fun t => t.reg 15) = some 0x01 := by decide

theorem test_V_ALU_27 :
    one 0x8126 ((State.reset.setReg 1 0x05).setReg 2 0xF0) (fun t => (t.reg 1, t.reg 2, t.reg 15)) =
      some (0x02, 0xF0, 0x01) := by decide

theorem test_V_ALU_29 :
    one 0x810E ((State.reset.setReg 1 0x41).setReg 15 0x01) (fun t => (t.reg 1, t.reg 15)) =
      some (0x82, 0x00) := by decide

theorem test_V_ALU_30 : one 0x8F0E (State.reset.setReg 15 0x81) (fun t => t.reg 15) = some 0x01 := by decide

theorem test_V_IDX_1 :
    one 0xA123 (State.reset.setI 0xFFFF) (fun t => (t.I, t.pc)) =
      some (0x0123, 0x0202) := by decide

theorem test_V_IDX_3 :
    one 0xF21E ((State.reset.setReg 2 0x20).setI 0x0FF0) (fun t => (t.I, t.reg 15, t.err)) =
      some (0x1010, 0x00, none) := by decide

theorem test_V_IDX_4 : one 0xF21E ((State.reset.setReg 2 0x02).setI 0xFFFF) (fun t => t.I) = some 0x0001 := by decide

theorem test_V_IDX_8 : one 0xF329 (State.reset.setReg 3 0xFF) (fun t => t.I) = some 0x04FB := by decide

theorem test_V_IDX_13 :
    one 0xF033 ((State.reset.setReg 0 0x7B).setI 0x0FFD) (fun t => (readBytes t.mem 0xFFD 3, t.I)) =
      some ([0x01, 0x02, 0x03], 0x0FFD) := by decide

theorem test_V_IDX_15 :
    one 0xF033 ((State.reset.setReg 0 0x7B).setI 0x1234) (fun t => (t.err, t.pc)) =
      some (some (.memOutOfRange 0x1234), 0x0200) := by decide

theorem test_V_IDX_17 :
    one 0xF055 ((State.reset.setReg 0 0xAB).setI 0x0FFF) (fun t => (readByte t.mem 0xFFF, t.I)) =
      some (0xAB, 0x1000) := by decide

theorem test_V_IDX_18 :
    one 0xF155 (((State.reset.setReg 0 0xAB).setReg 1 0xCD).setI 0x0FFF)
      (fun t => (readByte t.mem 0xFFF, t.I, t.err)) =
      some (0x00, 0x0FFF, some (.memOutOfRange 0x1000)) := by decide

theorem test_V_IDX_21 :
    one 0xF265 (((withBytes 0x300 [0x02, 0x05, 0x04, 0x09]).setReg 3 0x77).setI 0x0300)
      (fun t => (t.reg 0, t.reg 1, t.reg 2, t.reg 3, t.I)) =
      some (0x02, 0x05, 0x04, 0x77, 0x0303) := by decide

theorem test_V_IDX_23 :
    one 0xF165 ((State.reset.setReg 0 0x55).setI 0x0FFF) (fun t => (t.reg 0, t.err)) =
      some (0x55, some (.memOutOfRange 0x1000)) := by decide

theorem test_V_DSP_1 :
    one 0x00E0 ((State.reset.setReg 15 0x01).setDisp (toggleCell darkDisplay 31 63))
      (fun t => (cellAt t.disp 31 63, t.redraw, t.reg 15)) =
      some (false, true, 0x01) := by decide

theorem test_V_DSP_3 :
    one 0xD011 ((((withBytes 0x300 [0xC0]).setReg 0 0x3F).setReg 1 0x1F).setI 0x0300)
      (fun t => (cellAt t.disp 31 63, cellAt t.disp 31 0, cellAt t.disp 31 1, t.reg 15, t.redraw)) =
      some (true, true, false, 0x00, true) := by decide

theorem test_V_DSP_14 :
    one 0xD0F1 (((((withBytes 0x300 [0x80]).setReg 15 0x03).setReg 0 0x04).setI 0x0300).setDisp (toggleCell darkDisplay 3 4))
      (fun t => (cellAt t.disp 3 4, t.reg 15)) =
      some (false, 0x01) := by decide

theorem test_V_KEY_2 :
    one 0xE59E ((State.reset.setReg 5 0x0A).setKey 5 true) (fun t => t.pc) =
      some 0x0202 := by decide

theorem test_V_KEY_3 :
    one 0xE59E ((State.reset.setReg 5 0x10).setKey 0 true) (fun t => (t.pc, t.err)) =
      some (0x0200, some (.keyIndexOutOfRange 0x10)) := by decide

theorem test_V_KEY_4 : one 0xE5A1 (State.reset.setReg 5 0x0A) (fun t => t.pc) = some 0x0204 := by decide

theorem test_V_KEY_6 :
    one 0xE5A1 (State.reset.setReg 5 0xFF) (fun t => (t.pc, t.err)) =
      some (0x0200, some (.keyIndexOutOfRange 0xFF)) := by decide

theorem test_V_KEY_9 :
    one 0xFF07 (State.reset.setDT 0x2A) (fun t => (t.reg 15, t.DT)) =
      some (0x2A, 0x2A) := by decide

theorem test_V_KEY_10 :
    one 0xF20A (State.reset.setReg 2 0x55) (fun t => (t.reg 2, t.pc)) =
      some (0x55, 0x0200) := by decide

theorem test_V_KEY_12 :
    one 0xF20A ((((State.reset.setReg 2 0x55).setKey 9 true).setKey 3 true).setKey 12 true)
      (fun t => (t.reg 2, t.pc)) =
      some (0x03, 0x0202) := by decide

theorem test_V_KEY_14 :
    one 0xF015 (State.reset.setReg 0 0x03) (fun t => (t.DT, t.pc)) =
      some (0x03, 0x0202) := by decide

theorem test_V_KEY_17 :
    one 0xF418 (State.reset.setST 0x09) (fun t => (t.ST, t.sndEnded)) =
      some (0x00, false) := by decide

/-- The free byte is masked, drawn in order, and not known (V-ALU-36 with `rnd` left free). -/
theorem test_random_masks_draw :
    one 0xC10F (State.reset.setDraws 4) (fun t => (t.reg 1, t.draws, t.pc)) = some (Config.rnd 4 &&& 0x0F, 5, 0x0202) := rfl

/-- V-ALU-37: masked by zero the result is zero whatever was drawn. -/
theorem test_V_ALU_37 : one 0xC100 (State.reset.setReg 1 0xFF) (fun t => t.reg 1) = some 0x00 :=
  (rfl : _ = some (Config.rnd 0 &&& 0x00)).trans (by simp)

/-! ## Fetching, errors, placing a word -/

/-- V-ERR-1 to V-ERR-5 and V-ERR-22. -/
theorem test_fetchError :
    fetchError 0x0FFF = some (.memOutOfRange 0x0FFF) ∧ fetchError 0x1000 = some (.memOutOfRange 0x1000) ∧
    fetchError 0x0201 = some (.pcMisaligned 0x0201) ∧ fetchError 0x0FFD = some (.pcMisaligned 0x0FFD) ∧
    fetchError 0x10FE = some (.memOutOfRange 0x10FE) ∧ fetchError 0x1001 = some (.memOutOfRange 0x1001) ∧
    fetchError 0x0FFE = none := by decide

/-- From reset with nothing placed the first cycle fetches 0x0000 (V-LOAD-4, R295). -/
theorem test_step_reset :
    after (step State.reset) id =
      some ((State.reset.setErr (some (.unknownInstruction 0x0000))).setLoad .closed) := by decide

/-- A placed word is the first instruction after reset (V-ALU-1). -/
theorem test_withFetchWord :
    after (step (State.reset.withFetchWord 16 0x6A42)) (fun t => (t.reg 10, t.pc)) = some (0x42, 0x0202) := by decide

/-- The halted machine of section 2.6: cycle, tick, press and the consumes do nothing. -/
theorem test_halted :
    after (cycle ((State.reset.setDT 5).setErr (some (.unknownInstruction 0xF0FF)))) id =
      some ((State.reset.setDT 5).setErr (some (.unknownInstruction 0xF0FF))) ∧
    (tick ((State.reset.setDT 5).setErr (some (.unknownInstruction 0xF0FF)))).DT = 5 ∧
    (press 3 (State.reset.setErr (some (.unknownInstruction 0xF0FF)))).key[3] = false ∧
    (consumeRedraw ((State.reset.setRedraw true).setErr (some (.unknownInstruction 0xF0FF)))).2 = false := by decide

/-- The codes of R240. -/
theorem test_errorCodes :
    [none, some (.unknownInstruction 0), some (.stackOverflow 0), some (.stackUnderflow 0), some (.memOutOfRange 0),
      some (.pcMisaligned 0), some (.keyIndexOutOfRange 0)].map errorCode = [0, 1, 2, 3, 4, 5, 6] := by decide

/-! ## Memory and reset -/

/-- The reset memory has the canonical form, and writing the reset byte back removes the entry. -/
theorem test_memory_canonical :
    memWf State.reset.mem ∧ writeByte (writeByte [] 0x300 0x12) 0x300 0x00 = [] ∧
    writeByte (writeByte [] 0x300 0x12) 0x010 0xAA = [(0x010, 0xAA), (0x300, 0x12)] := by decide

/-- V-RST-1: the font at its place, zero after it (R33). -/
theorem test_reset_font :
    readBytes State.reset.mem 0x032 5 = [0xF0, 0x90, 0xF0, 0x90, 0x90] ∧
    readBytes State.reset.mem 0x04E 4 = [0x80, 0x80, 0x00, 0x00] ∧ defaultFont.length = 80 := by decide

/-! ## The host's operations -/

/-- An image of a given length. -/
def imageOf (n : Nat) : List Byte := List.replicate n 0x12

theorem imageOf_length (n : Nat) : (imageOf n).length = n := List.length_replicate

/-- V-TICK-1, V-TICK-3, V-TICK-4: zero stays zero, the sound timer's crossing, no crossing. -/
theorem test_tick :
    (tick State.reset).DT = 0 ∧ (tick State.reset).sndEnded = false ∧
    (tick (State.reset.setST 1)).ST = 0 ∧ (tick (State.reset.setST 1)).sndEnded = true ∧
    (tick ((State.reset.setDT 5).setST 2)).DT = 4 ∧ (tick ((State.reset.setDT 5).setST 2)).ST = 1 ∧
    (tick ((State.reset.setDT 5).setST 2)).sndEnded = false := by decide

/-- V-HOST-1: press twice, release. -/
theorem test_press_release :
    (press 7 (press 7 State.reset)).key[7] = true ∧ (release 7 (press 7 State.reset)).key[7] = false := by decide

/-- V-TICK-7: the second consume answers 0. -/
theorem test_consume :
    (consumeSoundEnded (tick (State.reset.setST 1))).2 = true ∧
    (consumeSoundEnded (consumeSoundEnded (tick (State.reset.setST 1))).1).2 = false := by decide

/-- V-LOAD-2 and V-LOAD-3: an image one byte too long fails; an odd length is legal. -/
theorem test_load :
    loadProgram (imageOf 3585) State.reset = (State.reset.setLoad .failed, false) ∧
    readBytes (loadProgram [0x60, 0x05, 0x12] State.reset).1.mem 0x200 4 = [0x60, 0x05, 0x12, 0x00] :=
  ⟨if_neg (by rw [imageOf_length]; decide), by decide⟩

/-- A scheduled operation is the step, and it leaves the list. -/
theorem test_schedule :
    after (step (State.reset.setSchedule [.press 4, .tick])) (fun t => (t.key[4], t.schedule)) = some (true, [.tick]) := by
  decide

/-- A reset, a key press and a load, each a step of its own: the order R262 allows. -/
theorem test_reset_press_load :
    after (core.run 3 (State.reset.setSchedule [.reset (Vector.replicate 80 0x11), .press 4, .loadProgram [0x60, 0x05]]))
      (fun t : State => (readByte t.mem 0x004, t.key[4], fetchWord t, t.load)) = some (0x11, true, 0x6005, .closed) := by
  decide +kernel

/-- A load that fails is a step; a cycle straight after it has no move, a second load after a good one neither
(R263, R293). -/
theorem test_load_order :
    hostLoad (imageOf 3585) State.reset = .next (State.reset.setLoad .failed) ∧
    step (State.reset.setLoad .failed) = .refused .cycleAfterFailedLoad ∧
    step ((State.reset.setLoad .closed).setSchedule [.loadProgram [0x60, 0x05]]) = .refused .loadWithoutReset :=
  ⟨congrArg (fun r : State × Bool => (.next r.1 : Result)) test_load.1, rfl, rfl⟩

/-- The display read after V-DSP-3: byte 1984 is the cell (31, 0). -/
theorem test_readDisplay :
    (readDisplay (State.reset.setDisp (toggleCell darkDisplay 31 0)))[1984]? = some 0x01 ∧
    (readDisplay (State.reset.setDisp (toggleCell darkDisplay 31 0)))[1985]? = some 0x00 := by decide +kernel

/-! ## Witnesses: concrete inputs that meet the hypotheses of the statements -/

/-- A state with an instruction of the last fetchable address in place, and a cycle scheduled. -/
def lastPlace : State := (placed 0x6001 (State.reset.setPc 0x0FFE)).setSchedule [.cycle]

/-- A halted state with host operations scheduled, a frame in use and a byte stored. -/
def haltedState : State :=
  { (withBytes 0x300 [0x07]) with
    sp := 1, stack := State.reset.stack.set 0 0x1000, pc := 0x1000, err := some (.memOutOfRange 0x1000),
    schedule := [.tick, .cycle, .press 3], load := .closed }

theorem witness_DecodeInvertsEncode :
    (Instr.draw 15 15 15).wellFormed = true ∧ (Instr.draw 0 0 0).wellFormed = true ∧
    (Instr.jump 0xFFF).wellFormed = true := by
  decide

theorem witness_DecodedWordsReassemble :
    decodeWord 0x912F = .ok (.skipNeReg 1 2) ∧ decodeWord 0x812E = .ok (.shiftLeft 1) ∧
    decodeWord 0xFFFF = .error (.unknownInstruction 0xFFFF) ∧ decodeWord 0xDFFF = .ok (.draw 15 15 15) := by decide

theorem witness_DecoderAgreesWithOpcodeMap :
    (⟨0x8004, 0xF00F⟩ : OpcodeRow) ∈ opcodeTable ∧ 0x8014#16 &&& 0xF00F#16 = 0x8004#16 := by decide

theorem witness_StepRunsDecodedInstruction :
    Healthy lastPlace ∧ Fetchable lastPlace ∧ lastPlace.load ≠ .failed ∧
    decodeBytes [readByte lastPlace.mem lastPlace.pc.toNat, readByte lastPlace.mem (lastPlace.pc.toNat + 1)] =
      .ok (.loadImm 0 1, []) ∧
    lastPlace.schedule = .cycle :: [] ∧ (lastPlace.setSchedule []).schedule = [] := by
  unfold Healthy Fetchable; decide

theorem witness_DispatchRunsOrRaises_runs :
    Healthy lastPlace ∧ Fetchable lastPlace ∧ (⟨0x6000, 0xF000⟩ : OpcodeRow) ∈ opcodeTable ∧
    fetchWord lastPlace &&& 0xF000#16 = 0x6000#16 := by
  unfold Healthy Fetchable; decide

theorem witness_DispatchRunsOrRaises_raises :
    Healthy State.reset ∧ Fetchable State.reset ∧
    ¬∃ row ∈ opcodeTable, fetchWord State.reset &&& row.mask = row.pattern := by
  unfold Healthy Fetchable; decide

theorem witness_PlacedWordRunsNext : decodeTableWord 16 0xFF65 = some (.loadRegisters 15) := by decide

theorem witness_FetchChecksRangeThenAlignment :
    (Healthy (State.reset.setPc 0x0FFF) ∧ 0xFFE < (State.reset.setPc 0x0FFF).pc.toNat) ∧
    Healthy (State.reset.setPc 0x0FFD) ∧ (State.reset.setPc 0x0FFD).pc.toNat ≤ 0xFFE ∧
    (State.reset.setPc 0x0FFD).pc.getLsbD 0 = true := by
  unfold Healthy; decide

theorem witness_HaltedMachineStaysFrozen :
    haltedState.err = some (.memOutOfRange 0x1000) ∧ haltedState.load = .closed ∧
    ∀ op ∈ haltedState.schedule, (∀ font, op ≠ .reset font) ∧ ∀ image, op ≠ .loadProgram image := by
  refine ⟨rfl, rfl, ?_⟩
  simp [haltedState]

/-- Also for the last clause of PcMovesAsTabled. -/
theorem witness_RaisingCycleChangesOnlyErr :
    Healthy State.reset ∧ cycle State.reset = .next (State.reset.setErr (some (.unknownInstruction 0x0000))) ∧
    (State.reset.setErr (some (.unknownInstruction 0x0000))).err = some (.unknownInstruction 0x0000) := ⟨rfl, rfl, rfl⟩

theorem witness_StepKeepsInv :
    StateInv haltedState ∧ step haltedState = .next (haltedState.setSchedule [.cycle, .press 3]) := by
  refine ⟨⟨by decide, by decide, by decide, ?_, fun _ => rfl⟩, rfl⟩
  show (_ ∧ _) ∨ _
  exact .inl (by decide)

/-- One memory reached by two orders of writing. -/
theorem witness_EqualReadsEqualMemories :
    memWf (writeByte (writeByte [] 0xFFF 0x01) 0x000 0x07) ∧ memWf (writeByte (writeByte [] 0x000 0x07) 0xFFF 0x01) ∧
    ∀ a, readByte (writeByte (writeByte [] 0xFFF 0x01) 0x000 0x07) a =
      readByte (writeByte (writeByte [] 0x000 0x07) 0xFFF 0x01) a :=
  ⟨by decide, by decide, fun _ => rfl⟩

theorem witness_CallPushesReturnAddress :
    (withFrames 0).sp.val = (0 : Fin 16).val ∧ (withFrames 15).sp.val = (15 : Fin 16).val ∧
    (withFrames 16).sp.val = 16 := by
  decide

theorem witness_ReturnPopsTopFrame :
    (withFrames 1).sp.val = (0 : Fin 16).val + 1 ∧ (withFrames 16).sp.val = (15 : Fin 16).val + 1 ∧
    (withFrames 0).sp.val = 0 := by decide

theorem witness_CallThenReturnComesBack : (withFrames 15).sp.val = (15 : Fin 16).val := by decide

theorem witness_ImmediateSkipsCompare :
    (State.reset.reg 3).toNat = (0x00#8).toNat ∧ (State.reset.reg 3).toNat ≠ (0xFF#8).toNat := by decide

theorem witness_RegisterSkipsCompare :
    ((State.reset.setReg 1 0xFF).reg 1).toNat ≠ ((State.reset.setReg 1 0xFF).reg 2).toNat ∧
    ((State.reset.setReg 1 0xFF).reg 2).toNat = ((State.reset.setReg 1 0xFF).reg 3).toNat := by decide

/-- The sums 256 and 255, and a destination that is not VF. -/
theorem witness_AddRegSumAndCarry :
    (0 : RegIdx) ≠ VF ∧
    (((State.reset.setReg 0 0xFF).setReg 1 0x01).reg 0).toNat +
      (((State.reset.setReg 0 0xFF).setReg 1 0x01).reg 1).toNat > 255 ∧
    ((State.reset.setReg 0 0xFF).reg 0).toNat + ((State.reset.setReg 0 0xFF).reg 1).toNat ≤ 255 := by decide

theorem witness_SubtractionsAndNotBorrow :
    (1 : RegIdx) ≠ VF ∧ (State.reset.reg 1).toNat ≥ (State.reset.reg 2).toNat ∧
    ((State.reset.setReg 2 0x01).reg 1).toNat < ((State.reset.setReg 2 0x01).reg 2).toNat := by decide

theorem witness_ShiftsKeepLostBit : (14 : RegIdx) ≠ VF := by decide

theorem witness_RandomMasksFreeByte : (0x00 : Byte) = 0 := rfl

theorem witness_StoreBcdWritesDigits :
    (State.reset.setI 0x0FFD).I.toNat + 2 ≤ 0xFFF ∧ (State.reset.setI 0x0FFE).I.toNat + 2 > 0xFFF := by decide

theorem witness_StoreRegistersCopiesOut_LoadRegistersCopiesIn :
    (State.reset.setI 0x0FF0).I.toNat + (15 : RegIdx).val ≤ 0xFFF ∧
    (State.reset.setI 0x0FFF).I.toNat + (0 : RegIdx).val ≤ 0xFFF ∧
    (State.reset.setI 0x0FFF).I.toNat + (1 : RegIdx).val > 0xFFF ∧
    (State.reset.setI 0x1000).I.toNat + (0 : RegIdx).val > 0xFFF := by
  decide

theorem witness_StoreThenLoadRestores : (State.reset.setI 0x0FF0).I.toNat + (15 : RegIdx).val ≤ 0xFFF := by decide

theorem witness_StoreSeenByNextFetch :
    1 ≤ (1 : RegIdx).val ∧ ((State.reset.setPc 0x0FFC).setI 0x0FFE).I = ((State.reset.setPc 0x0FFC).setI 0x0FFE).pc + 2 ∧
    ((State.reset.setPc 0x0FFC).setI 0x0FFE).I.toNat + (1 : RegIdx).val ≤ 0xFFF := by decide

/-- Fifteen rows ending at the last byte of memory; no row at all from an address outside it. -/
theorem witness_DrawTogglesCoveredCells :
    (15 < 16 ∧ ((15 : Nat) = 0 ∨ (State.reset.setI 0x0FF1).I.toNat + 15 ≤ 4096)) ∧
    (0 < 16 ∧ ((0 : Nat) = 0 ∨ (State.reset.setI 0xFFFF).I.toNat + 0 ≤ 4096)) := by decide

/-- A state whose one sprite byte 0x01 (at 0x300) reaches, from (63, 31), the cell at row 31, column 6, which is lit. -/
def spriteState : State := ((withBytes 0x300 [0x01]).setI 0x0300).setDisp (toggleCell darkDisplay 31 6)

theorem witness_draw_covered : spriteCovers spriteState 63 31 1 31 6 ∧ spriteHits spriteState 63 31 1 := by
  have h : spriteCovers spriteState 63 31 1 31 6 := ⟨0, 7, by decide⟩
  exact ⟨h, 31, 6, h, by decide⟩

theorem witness_draw_uncovered : ¬spriteCovers spriteState 63 31 0 31 6 ∧ ¬spriteHits spriteState 63 31 0 := by
  have h : ∀ r c, ¬spriteCovers spriteState 63 31 0 r c := by
    rintro r c ⟨j, k, hj, -⟩
    exact absurd hj (Nat.not_lt_zero j)
  exact ⟨h _ _, fun ⟨r, c, hc, _⟩ => h r c hc⟩

theorem witness_DrawChecksSpriteRange :
    (1 ≤ 1 ∧ 1 < 16 ∧ (State.reset.setI 0x1000).I.toNat + 1 > 4096) ∧
    (1 ≤ 15 ∧ 15 < 16 ∧ (State.reset.setI 0x0FF2).I.toNat + 15 > 4096) := by decide

theorem witness_DoubleDrawRestores :
    15 < 16 ∧ ((15 : Nat) = 0 ∨ (State.reset.setI 0x0FF1).I.toNat + 15 ≤ 4096) := by decide

theorem witness_KeySkipsTestNamedKey :
    (((State.reset.setReg 5 0x0F).setKey 15 true).reg 5).toNat = (15 : KeyIdx).val ∧
    ((State.reset.setReg 5 0x0F).setKey 15 true).key[(15 : KeyIdx).val] = true ∧
    ((State.reset.setReg 5 0x0F).reg 5).toNat = (15 : KeyIdx).val ∧
    (State.reset.setReg 5 0x0F).key[(15 : KeyIdx).val] = false ∧
    ((State.reset.setReg 5 0x10).reg 5).toNat > 15 := by decide

theorem witness_WaitKeyTakesLowestOrStalls :
    (((State.reset.setKey 15 true).setKey 3 true).key[3] = true ∧
      ∀ j : KeyIdx, j < 3 → ((State.reset.setKey 15 true).setKey 3 true).key[j.val] = false) ∧
    ∀ k : KeyIdx, State.reset.key[k.val] = false := by decide

/-- For the statements on the host's operations: a healthy state and a halted one. -/
theorem witness_hostOperations_Tick_Timer_Press_Consume : Healthy State.reset ∧ ¬Healthy haltedState := by
  unfold Healthy; decide

theorem witness_LoadProgramPlacesImage : (imageOf 3584).length ≤ 3584 ∧ 3584 < (imageOf 3585).length := by
  rw [imageOf_length, imageOf_length]; decide

theorem witness_EntryPointIsFixed : (imageOf 3582).length + 2 ≤ 3584 := by rw [imageOf_length]

/-- The shortest and the longest image that leaves an even address behind it. -/
theorem witness_RunningOffTheImageHalts :
    ((imageOf 0).length ≤ 3584 ∧ (0x0200#16).getLsbD 0 = false ∧
      0x200 + (imageOf 0).length ≤ (0x0200#16).toNat ∧ (0x0200#16).toNat ≤ 0xFFE) ∧
    (imageOf 3582).length ≤ 3584 ∧ (0x0FFE#16).getLsbD 0 = false ∧
    0x200 + (imageOf 3582).length ≤ (0x0FFE#16).toNat ∧ (0x0FFE#16).toNat ≤ 0xFFE := by
  rw [imageOf_length, imageOf_length]; decide

/-- An instruction that completes: for the statements over all instructions. -/
theorem witness_PcMovesAsTabled_InstructionsWriteOnlyTheirParts_completes :
    Healthy State.reset ∧ exec (.loadImm 1 2) State.reset = .next ((State.reset.setReg 1 2).setPc 0x0202) ∧
    Healthy ((State.reset.setReg 1 2).setPc 0x0202) ∧ ∀ e, ¬mayRaise (.loadImm 1 2) State.reset e :=
  ⟨rfl, rfl, rfl, fun _ h => h⟩

/-- An instruction that raises: for the same statements. -/
theorem witness_PcMovesAsTabled_InstructionsWriteOnlyTheirParts_raises :
    Healthy State.reset ∧ exec .ret State.reset = .next (State.reset.setErr (some (.stackUnderflow 0x0200))) ∧
    ¬Healthy (State.reset.setErr (some (.stackUnderflow 0x0200))) ∧ mayRaise .ret State.reset (.stackUnderflow 0x0200) :=
  ⟨rfl, rfl, by unfold Healthy; decide, rfl, rfl⟩

/-- `set-sound` and an instruction that is neither `draw` nor `clear-screen`. -/
theorem witness_HostSideStateIsUnreadable :
    exec (.setSound 1) State.reset = .next ((State.reset.setST 0).setPc 0x0202) ∧
    (∀ x, Instr.setDelay 1 ≠ .setSound x) ∧ (Instr.setSound 1 ≠ .clearScreen ∧ ∀ x y n, Instr.setSound 1 ≠ .draw x y n) :=
  ⟨rfl, by simp, by simp⟩

/-- A `draw` that completes and one that raises. -/
theorem witness_HostSideStateIsUnreadable_draw :
    (∀ e, ¬mayRaise (.draw 0 1 15) (State.reset.setI 0x0FF1) e) ∧
    mayRaise (.draw 0 1 15) (State.reset.setI 0x0FF2) (.memOutOfRange 0x1000) :=
  ⟨fun _ h => absurd h.2.1 (by decide), by decide, by decide, rfl⟩

/-- A load still possible, and one after a failed load. -/
theorem witness_EachHostOperationIsOneStep :
    (State.reset.setSchedule [.loadProgram [0x60, 0x05]]).load ≠ .closed ∧
    (State.reset.setLoad .failed).load ≠ .closed ∧ (State.reset.setSchedule [.cycle]).load ≠ .failed := by decide

theorem witness_StepStopsOnlyOutOfOrder :
    ((State.reset.setLoad .failed).load = .failed ∧ (State.reset.setLoad .failed).schedule = []) ∧
    (haltedState.setSchedule [.loadProgram [0x60, 0x05]]).load = .closed ∧
    (haltedState.setSchedule [.loadProgram [0x60, 0x05]]).schedule = .loadProgram [0x60, 0x05] :: [] ∧
    ¬State.reset.load = .failed ∧ ¬State.reset.load = .closed := by decide

theorem witness_FailedLoadIsRecoverable (font : Vector Byte 80) :
    let between : List HostOp := [.tick, .press 3, .consumeRedraw]
    let ops : List HostOp := .loadProgram (imageOf 3585) :: (between ++ .reset font :: .loadProgram [0x60, 0x05] :: [.cycle])
    (State.reset.setSchedule ops).load ≠ .closed ∧ 3584 < (imageOf 3585).length ∧ ([] : List Byte).length + 2 ≤ 3584 ∧
    (∀ op ∈ between, op ≠ .cycle ∧ (∀ f, op ≠ .reset f) ∧ ∀ img, op ≠ .loadProgram img) ∧
    (State.reset.setSchedule ops).schedule = ops := by
  refine ⟨by simp [State.reset, State.setSchedule], by rw [imageOf_length]; decide, by decide, by simp, rfl⟩

end Sys2Proof.Tests
end

section
/-! PROOF. Which words select a row of the opcode map (R86 of 30_encoding.md), and that the decoder and the
encoder agree with the rows. -/

namespace Sys2Proof

/-! ## The fields of a word under a row's mask (R81, R86) -/

/-- A field that the mask covers is the pattern's. -/
theorem extractLsb'_of_selects {w mask pattern : Word} (start len : Nat) (h : w &&& mask = pattern)
    (hm : mask.extractLsb' start len = BitVec.allOnes len) :
    w.extractLsb' start len = pattern.extractLsb' start len := by
  rw [← h, BitVec.extractLsb'_and, hm, BitVec.and_allOnes]

theorem opField_append_nnnField (w : Word) : opField w ++ nnnField w = w := BitVec.extractLsb'_append_extractLsb'

/-- A word is its four nibbles. -/
theorem nibbles_append (w : Word) : opField w ++ w.extractLsb' 8 4 ++ w.extractLsb' 4 4 ++ nField w = w := by
  have high : opField w ++ w.extractLsb' 8 4 = w.extractLsb' 8 8 :=
    BitVec.extractLsb'_append_extractLsb'_eq_extractLsb' rfl
  have middle : w.extractLsb' 8 8 ++ w.extractLsb' 4 4 = w.extractLsb' 4 12 :=
    BitVec.extractLsb'_append_extractLsb'_eq_extractLsb' rfl
  rw [high, middle]
  exact BitVec.extractLsb'_append_extractLsb'

theorem opField_append_kkField (w : Word) : opField w ++ w.extractLsb' 8 4 ++ kkField w = w := by
  have high : opField w ++ w.extractLsb' 8 4 = w.extractLsb' 8 8 :=
    BitVec.extractLsb'_append_extractLsb'_eq_extractLsb' rfl
  rw [high]
  exact BitVec.extractLsb'_append_extractLsb'

/-- The mask of a row selected by the family alone. -/
theorem and_F000 (w : Word) : w &&& 0xF000#16 = encodeNNN (opField w) 0 := by
  conv_lhs => rw [← opField_append_nnnField w, show 0xF000#16 = BitVec.allOnes 4 ++ 0#12 from rfl]
  rw [BitVec.and_append, BitVec.and_allOnes, BitVec.and_zero]; rfl

/-- The mask of a row selected by the family and the low nibble. -/
theorem and_F00F (w : Word) : w &&& 0xF00F#16 = encodeXYN (opField w) 0 0 (nField w) := by
  conv_lhs => rw [← nibbles_append w, show 0xF00F#16 = BitVec.allOnes 4 ++ 0#4 ++ 0#4 ++ BitVec.allOnes 4 from rfl]
  rw [BitVec.and_append, BitVec.and_append, BitVec.and_append, BitVec.and_allOnes, BitVec.and_allOnes, BitVec.and_zero,
    BitVec.and_zero]; rfl

/-- The mask of a row selected by the family and the low byte. -/
theorem and_F0FF (w : Word) : w &&& 0xF0FF#16 = encodeXKK (opField w) 0 (kkField w) := by
  conv_lhs => rw [← opField_append_kkField w, show 0xF0FF#16 = BitVec.allOnes 4 ++ 0#4 ++ BitVec.allOnes 8 from rfl]
  rw [BitVec.and_append, BitVec.and_append, BitVec.and_allOnes, BitVec.and_allOnes, BitVec.and_zero]; rfl

/-! ## The rows -/

/-- No word selects two rows: two rows that agree on the bits both of them fix are one row (R95). -/
theorem opcodeRow_unique {w : Word} {a b : OpcodeRow} (ha : a ∈ opcodeTable) (hb : b ∈ opcodeTable)
    (hwa : w &&& a.mask = a.pattern) (hwb : w &&& b.mask = b.pattern) : a = b := by
  have compare : ∀ a ∈ opcodeTable, ∀ b ∈ opcodeTable, a.pattern &&& b.mask = b.pattern &&& a.mask → a = b := by
    decide
  refine compare a ha b hb ?_
  rw [← hwa, ← hwb, BitVec.and_assoc, BitVec.and_assoc, BitVec.and_comm a.mask]

/-- The families that hold one instruction each (R84). -/
def wholeFamilies : List (BitVec 4) :=
  [0x1#4, 0x2#4, 0x3#4, 0x4#4, 0x5#4, 0x6#4, 0x7#4, 0x9#4, 0xA#4, 0xB#4, 0xC#4, 0xD#4]

/-- The low nibbles that family 0x8 gives an instruction (R85). -/
def selectors8 : List (BitVec 4) := [0x0#4, 0x1#4, 0x2#4, 0x3#4, 0x4#4, 0x5#4, 0x6#4, 0x7#4, 0xE#4]

/-- The low bytes that family 0xE gives an instruction (R85). -/
def selectorsE : List Byte := [0x9E#8, 0xA1#8]

/-- The low bytes that family 0xF gives an instruction (R85). -/
def selectorsF : List Byte := [0x07#8, 0x0A#8, 0x15#8, 0x18#8, 0x1E#8, 0x29#8, 0x33#8, 0x55#8, 0x65#8]

/-- The kinds of rows (R85, R88): the two whole words of family 0x0, the whole families, and the families 0x8, 0xE and 0xF
with a selector each. -/
theorem opcodeTable_kinds : ∀ row ∈ opcodeTable,
    (row.mask = 0xFFFF#16 ∧ (row.pattern = 0x00E0#16 ∨ row.pattern = 0x00EE#16)) ∨
    (row.mask = 0xF000#16 ∧ opField row.pattern ∈ wholeFamilies) ∨
    (row.mask = 0xF00F#16 ∧ opField row.pattern = 0x8#4 ∧ nField row.pattern ∈ selectors8) ∨
    (row.mask = 0xF0FF#16 ∧ opField row.pattern = 0xE#4 ∧ kkField row.pattern ∈ selectorsE) ∨
    (row.mask = 0xF0FF#16 ∧ opField row.pattern = 0xF#4 ∧ kkField row.pattern ∈ selectorsF) := by
  decide

/-! ## A word that selects a row decodes -/

section
variable {w : Word}

theorem decodeWord_of_family8 (hop : opField w = 0x8#4) : decodeWord w = decodeFamily8 w := by
  unfold decodeWord; rw [hop]; rfl

theorem decodeWord_of_familyE (hop : opField w = 0xE#4) : decodeWord w = decodeFamilyE w := by
  unfold decodeWord; rw [hop]; rfl

theorem decodeWord_of_familyF (hop : opField w = 0xF#4) : decodeWord w = decodeFamilyF w := by
  unfold decodeWord; rw [hop]; rfl

theorem decodes_of_wholeFamily (hop : opField w ∈ wholeFamilies) : ∃ i, decodeWord w = .ok i := by
  unfold decodeWord
  split <;> simp_all [wholeFamilies]

theorem decodes_of_family8 (hop : opField w = 0x8#4) (hn : nField w ∈ selectors8) : ∃ i, decodeWord w = .ok i := by
  rw [decodeWord_of_family8 hop, decodeFamily8.eq_def]
  split <;> simp_all [selectors8]

theorem decodes_of_familyE (hop : opField w = 0xE#4) (hkk : kkField w ∈ selectorsE) : ∃ i, decodeWord w = .ok i := by
  rw [decodeWord_of_familyE hop, decodeFamilyE.eq_def]
  split <;> simp_all [selectorsE]

theorem decodes_of_familyF (hop : opField w = 0xF#4) (hkk : kkField w ∈ selectorsF) : ∃ i, decodeWord w = .ok i := by
  rw [decodeWord_of_familyF hop, decodeFamilyF.eq_def]
  split <;> simp_all [selectorsF]

/-- The mask of each kind of row fixes the fields the decoder looks at. -/
theorem decodes_of_selects {row : OpcodeRow} (hrow : row ∈ opcodeTable)
    (h : w &&& row.mask = row.pattern) : ∃ i, decodeWord w = .ok i := by
  have field (start len : Nat) := extractLsb'_of_selects start len h
  rcases opcodeTable_kinds row hrow with
    ⟨hm, hp⟩ | ⟨hm, hop⟩ | ⟨hm, hop, hn⟩ | ⟨hm, hop, hkk⟩ | ⟨hm, hop, hkk⟩ <;> rw [hm] at field
  · have hw : w = row.pattern := by simpa using field 0 16 rfl
    rcases hp with hp | hp <;> rw [hw, hp]
    · exact ⟨.clearScreen, rfl⟩
    · exact ⟨.ret, rfl⟩
  · exact decodes_of_wholeFamily (by rwa [opField, field 12 4 rfl])
  · exact decodes_of_family8 ((field 12 4 rfl).trans hop) (by rwa [nField, field 0 4 rfl])
  · exact decodes_of_familyE ((field 12 4 rfl).trans hop) (by rwa [kkField, field 0 8 rfl])
  · exact decodes_of_familyF ((field 12 4 rfl).trans hop) (by rwa [kkField, field 0 8 rfl])

end

/-! ## A word that decodes selects the row of its instruction -/

/-- Some row is selected by both words. -/
def SelectSameRow (w v : Word) : Prop :=
  ∃ row ∈ opcodeTable, w &&& row.mask = row.pattern ∧ v &&& row.mask = row.pattern

section
variable {w v : Word} {op : BitVec 4}

theorem selectSameRow_of_op (hrow : ⟨encodeNNN op 0, 0xF000⟩ ∈ opcodeTable)
    (hw : opField w = op) (hv : opField v = op) : SelectSameRow w v :=
  ⟨_, hrow, by rw [← hw]; exact and_F000 w, by rw [← hv]; exact and_F000 v⟩

theorem selectSameRow_of_nibble {n : BitVec 4} (hrow : ⟨encodeXYN op 0 0 n, 0xF00F⟩ ∈ opcodeTable)
    (hw : opField w = op) (hwn : nField w = n) (hv : opField v = op) (hvn : nField v = n) : SelectSameRow w v :=
  ⟨_, hrow, by rw [← hw, ← hwn]; exact and_F00F w, by rw [← hv, ← hvn]; exact and_F00F v⟩

theorem selectSameRow_of_byte {kk : Byte} (hrow : ⟨encodeXKK op 0 kk, 0xF0FF⟩ ∈ opcodeTable)
    (hw : opField w = op) (hwk : kkField w = kk) (hv : opField v = op) (hvk : kkField v = kk) : SelectSameRow w v :=
  ⟨_, hrow, by rw [← hw, ← hwk]; exact and_F0FF w, by rw [← hv, ← hvk]; exact and_F0FF v⟩

end

theorem decodeFamily0_selects {w : Word} {i : Instr} (h : decodeFamily0 w = .ok i) : SelectSameRow w (encode i) := by
  unfold decodeFamily0 at h
  split at h
  · next hw => cases h; subst hw; exact ⟨⟨0x00E0, 0xFFFF⟩, by decide⟩
  · split at h
    · next hw => cases h; subst hw; exact ⟨⟨0x00EE, 0xFFFF⟩, by decide⟩
    · cases h

theorem decodeFamily8_selects {w : Word} {i : Instr} (hop : opField w = 0x8#4) (h : decodeFamily8 w = .ok i) :
    SelectSameRow w (encode i) := by
  unfold decodeFamily8 at h
  split at h <;> cases h <;> next hn =>
    exact selectSameRow_of_nibble (by decide) hop hn (opField_encodeXYN ..) (nField_encodeXYN ..)

theorem decodeFamilyE_selects {w : Word} {i : Instr} (hop : opField w = 0xE#4) (h : decodeFamilyE w = .ok i) :
    SelectSameRow w (encode i) := by
  unfold decodeFamilyE at h
  split at h <;> cases h <;> next hkk =>
    exact selectSameRow_of_byte (by decide) hop hkk (opField_encodeXKK ..) (kkField_encodeXKK ..)

theorem decodeFamilyF_selects {w : Word} {i : Instr} (hop : opField w = 0xF#4) (h : decodeFamilyF w = .ok i) :
    SelectSameRow w (encode i) := by
  unfold decodeFamilyF at h
  split at h <;> cases h <;> next hkk =>
    exact selectSameRow_of_byte (by decide) hop hkk (opField_encodeXKK ..) (kkField_encodeXKK ..)

/-- The word and the assembled word of what it decodes to select one row of the map (R86, R94). -/
theorem decodeWord_selects {w : Word} {i : Instr} (h : decodeWord w = .ok i) : SelectSameRow w (encode i) := by
  unfold decodeWord at h
  split at h
  case h_1 => exact decodeFamily0_selects h
  case h_9 hop => exact decodeFamily8_selects hop h
  case h_15 hop => exact decodeFamilyE_selects hop h
  case h_16 =>
    -- The default arm: the fifteen other codes are excluded.
    have hop : opField w = 0xF#4 := by simp only [imp_false] at *; bv_omega
    exact decodeFamilyF_selects hop h
  case h_2 hop | h_3 hop | h_11 hop | h_12 hop =>
    cases h; exact selectSameRow_of_op (by decide) hop (opField_encodeNNN ..)
  case h_4 hop | h_5 hop | h_7 hop | h_8 hop | h_13 hop =>
    cases h; exact selectSameRow_of_op (by decide) hop (opField_encodeXKK ..)
  case h_6 hop | h_10 hop | h_14 hop =>
    cases h; exact selectSameRow_of_op (by decide) hop (opField_encodeXYN ..)

end Sys2Proof
end

section
/-! PROOF. How an instruction and a cycle end (R113, R114 of 40_cycle.md): with the latch left alone and `pc` at the
place the table gives, or with an error latched and nothing else changed. -/

namespace Sys2Proof

open Machine

/-- The two ways an operation ends (R10, R114, R247): it completes, the latch left alone and `pc` at the target, or it
raises, which changes `err` alone. -/
def EndsAt (target : Word) (s t : State) : Prop :=
  (t.err = s.err ∧ t.pc = target) ∨ ∃ e, t = s.setErr (some e)

section
variable {s t u : State} {target : Word}

/-! ## One lemma per way an instruction ends -/

theorem endsAt_raise {e : ErrorValue} (h : raise e s = .next t) : EndsAt target s t := by
  cases h; exact .inr ⟨e, rfl⟩

theorem endsAt_goTo (h : goTo target u = .next t) (herr : u.err = s.err) : EndsAt target s t := by
  cases h; exact .inl ⟨herr, rfl⟩

theorem endsAt_advance (h : advance u = .next t) (herr : u.err = s.err) (hpc : u.pc = s.pc) :
    EndsAt (s.pc + 2) s t := by
  cases h; exact .inl ⟨herr, congrArg (· + 2) hpc⟩

theorem endsAt_skipIf {c : Bool} {p : Prop} [Decidable p] (hc : c = true ↔ p) (h : skipIf c s = .next t) :
    EndsAt (if p then s.pc + 4 else s.pc + 2) s t := by
  cases h
  refine .inl ⟨rfl, ?_⟩
  by_cases hp : p <;> simp [hc, hp, State.setPc]

theorem endsAt_checked {e : Option ErrorValue} {k : Result} (h : checked e s k = .next t)
    (hk : k = .next t → EndsAt target s t) : EndsAt target s t := by
  rcases checked_next h with ⟨-, h⟩ | ⟨v, -, rfl⟩
  · exact hk h
  · exact .inr ⟨v, rfl⟩

/-! ## The instructions whose end depends on the state -/

/-- The place a `return` goes to, while a frame is in use (R130). -/
theorem pcAfter_ret (h : 0 < s.sp.val) : pcAfter .ret s = s.stack[s.sp.val - 1] := by
  have hlt : s.sp.val - 1 < 16 := by omega
  simp [pcAfter, hlt]

theorem exec_ret_endsAt (h : exec .ret s = .next t) : EndsAt (pcAfter .ret s) s t := by
  rcases exec_ret_cases h with ⟨-, rfl⟩ | ⟨hsp, rfl⟩
  · exact .inr ⟨_, rfl⟩
  · exact .inl ⟨rfl, (pcAfter_ret hsp).symm⟩

theorem exec_call_endsAt {addr : BitVec 12} (h : exec (.call addr) s = .next t) :
    EndsAt (pcAfter (.call addr) s) s t := by
  rcases exec_call_cases h with ⟨-, rfl⟩ | ⟨hsp, rfl⟩
  · exact .inr ⟨_, rfl⟩
  · exact .inl ⟨rfl, rfl⟩

/-- `wait-key` advances exactly when some key is down (R223). -/
theorem execWaitKey_endsAt {x : RegIdx} (h : execWaitKey x s = .next t) : EndsAt (pcAfter (.waitKey x) s) s t := by
  unfold execWaitKey at h
  split at h
  · next k hk =>
    obtain ⟨hlt, hdown, -⟩ := lowestKey_eq_some hk
    rw [pcAfter, if_pos ⟨⟨k, hlt⟩, hdown⟩]
    exact endsAt_advance h rfl rfl
  · next hk =>
    cases h
    have hup := lowestKey_eq_none.mp hk
    exact .inl ⟨rfl, by simp [pcAfter, hup]⟩

/-! ## Every instruction, every cycle -/

/-- The table of R114, for an instruction that completes, and for one that raises. -/
theorem exec_endsAt {i : Instr} (h : exec i s = .next t) : EndsAt (pcAfter i s) s t := by
  cases i with
  | ret => exact exec_ret_endsAt h
  | call => exact exec_call_endsAt h
  | jump | jumpOffset => exact endsAt_goTo h rfl
  | skipEqImm | skipEqReg => exact endsAt_skipIf beq_iff_eq h
  | skipNeImm | skipNeReg => exact endsAt_skipIf bne_iff_ne h
  | skipKeyPressed => exact endsAt_checked h (endsAt_skipIf Iff.rfl)
  | skipKeyNotPressed => exact endsAt_checked h (endsAt_skipIf (iff_of_eq (Bool.not_eq_true' _)))
  | waitKey => exact execWaitKey_endsAt h
  | draw | storeBcd | storeRegisters => exact endsAt_checked h fun h => endsAt_advance h rfl rfl
  | loadRegisters => exact endsAt_checked h fun h => endsAt_advance h (by simp) (by simp)
  | clearScreen | loadImm | addImm | loadReg | orReg | andReg | xorReg | addReg | subReg | shiftRight | subnReg
  | shiftLeft | setIndex | random | loadDelay | setDelay | setSound | addIndex | fontAddress =>
    exact endsAt_advance h rfl rfl

/-- A healthy cycle raises in its fetch or its dispatch, or ends as the fetched instruction does (R111 to R113). -/
theorem cycle_endsAt (hs : Healthy s) (h : cycle s = .next t) : ∃ target, EndsAt target s t := by
  rw [cycle_of_healthy hs] at h
  cases hd : decodeWord (fetchWord s) with
  | ok i =>
    rw [decodeAndRun_of_ok hd] at h
    exact ⟨_, endsAt_checked h exec_endsAt⟩
  | error e =>
    rw [decodeAndRun_of_error hd] at h
    exact ⟨s.pc, endsAt_checked h endsAt_raise⟩

/-! ## What the end says of a healthy start -/

theorem EndsAt.pc_of_healthy (h : EndsAt target s t) (ht : Healthy t) : t.pc = target := by
  rcases h with ⟨-, hpc⟩ | ⟨e, rfl⟩
  · exact hpc
  · cases ht

theorem EndsAt.pc_of_halted (h : EndsAt target s t) (hs : Healthy s) (ht : ¬Healthy t) : t.pc = s.pc := by
  rcases h with ⟨herr, -⟩ | ⟨e, rfl⟩
  · exact absurd (herr.trans hs) ht
  · rfl

end

/-! ## The obligations -/

/-- Settles O7: a word that selects a row decodes, and the row it shares with its instruction's word is that row, no
word selecting two; a word that selects none does not decode. -/
theorem dispatchRunsOrRaises : Obligations.DispatchRunsOrRaises := by
  intro s hs hf
  have hcycle : cycle s = decodeAndRun s := cycle_of_fetchable hs (fetchError_eq_none.mpr hf)
  refine ⟨fun row hrow hsel => ?_, fun hnone => ?_⟩
  · obtain ⟨i, hi⟩ := decodes_of_selects hrow hsel
    obtain ⟨row', hrow', hsel', henc⟩ := decodeWord_selects hi
    obtain rfl := opcodeRow_unique hrow' hrow hsel' hsel
    exact ⟨i, hi, henc, hcycle.trans (decodeAndRun_of_ok hi)⟩
  · cases hd : decodeWord (fetchWord s) with
    | ok i =>
      obtain ⟨row, hrow, hsel, -⟩ := decodeWord_selects hd
      exact absurd ⟨row, hrow, hsel⟩ hnone
    | error e => rw [hcycle, decodeAndRun_of_error hd, raise_eq]

/-- Settles O53: every instruction, and every cycle, completes or raises, and raising keeps `pc`. -/
theorem pcMovesAsTabled : Obligations.PcMovesAsTabled := by
  refine ⟨fun i s t hs h => ?_, fun s t hs h ht => ?_⟩
  · have hend := exec_endsAt h
    exact ⟨hend.pc_of_healthy, hend.pc_of_halted hs⟩
  · obtain ⟨target, hend⟩ := cycle_endsAt hs h
    exact hend.pc_of_halted hs ht

end Sys2Proof
end

section
/-! PROOF. The jumps and the register skips (R131, R133 to R137 of 41_control_flow.md): their words, and that `pc` is the
one part they change. -/

namespace Sys2Proof

open Machine

/-! ## The words of the jumps and skips (R86), each in a family of its own -/

theorem decodeWord_jump (addr : BitVec 12) : decodeWord (encodeNNN 0x1#4 addr) = .ok (.jump addr) := by
  simp only [decodeWord, opField_encodeNNN, nnnField_encodeNNN]

theorem decodeWord_jumpOffset (addr : BitVec 12) : decodeWord (encodeNNN 0xB#4 addr) = .ok (.jumpOffset addr) := by
  simp only [decodeWord, opField_encodeNNN, nnnField_encodeNNN]

theorem decodeWord_skipEqImm (x : RegIdx) (kk : Byte) :
    decodeWord (encodeXKK 0x3#4 x kk) = .ok (.skipEqImm x kk) := by
  simp only [decodeWord, opField_encodeXKK, xField_encodeXKK, kkField_encodeXKK]

theorem decodeWord_skipNeImm (x : RegIdx) (kk : Byte) :
    decodeWord (encodeXKK 0x4#4 x kk) = .ok (.skipNeImm x kk) := by
  simp only [decodeWord, opField_encodeXKK, xField_encodeXKK, kkField_encodeXKK]

/-- The low nibble is not looked at (R87). -/
theorem decodeWord_skipEqReg (x y : RegIdx) (n : BitVec 4) :
    decodeWord (encodeXYN 0x5#4 x y n) = .ok (.skipEqReg x y) := by
  simp only [decodeWord, opField_encodeXYN, xField_encodeXYN, yField_encodeXYN]

/-- The low nibble is not looked at (R87). -/
theorem decodeWord_skipNeReg (x y : RegIdx) (n : BitVec 4) :
    decodeWord (encodeXYN 0x9#4 x y n) = .ok (.skipNeReg x y) := by
  simp only [decodeWord, opField_encodeXYN, xField_encodeXYN, yField_encodeXYN]

/-! ## Operands widened to an address (R83, R137) -/

@[simp] theorem toNat_addrOperand (addr : BitVec 12) : (addrOperand addr).toNat = addr.toNat :=
  BitVec.toNat_setWidth_of_le (by decide)

@[simp] theorem toNat_regOperand16 (s : State) (i : RegIdx) : (regOperand16 s i).toNat = (s.reg i).toNat :=
  BitVec.toNat_setWidth_of_le (by decide)

/-- A literal and a register together stay far below 65536, so their sum does not wrap (R137). -/
theorem toNat_addrOperand_add_regOperand16 (addr : BitVec 12) (s : State) (i : RegIdx) :
    (addrOperand addr + regOperand16 s i).toNat = addr.toNat + (s.reg i).toNat := by
  have haddr := addr.isLt
  have hreg := (s.reg i).isLt
  rw [BitVec.toNat_add_of_lt] <;> rw [toNat_addrOperand, toNat_regOperand16]
  omega

/-! ## What a jump and a skip change -/

theorem frameBut_setPc (s : State) (a : Word) : FrameBut [.pc] s (s.setPc a) := by
  intro p hp
  cases p with
  | pc => exact absurd (List.mem_singleton_self _) hp
  | _ => rfl

/-- A skip changes `pc` alone: by 4 when its condition holds, else by 2 (R114). -/
theorem skipIf_moves {c : Bool} {p : Prop} (hc : c = true ↔ p) (s : State) :
    ∃ t, skipIf c s = .next t ∧ FrameBut [.pc] s t ∧ (p → t.pc = s.pc + 4) ∧ (¬p → t.pc = s.pc + 2) := by
  refine ⟨_, skipIf_eq c s, frameBut_setPc s _, fun hp => ?_, fun hp => ?_⟩
  · simp [hc.mpr hp]
  · simp [mt hc.mp hp]

section
variable {a b : Byte}

/-- The equal skips compare two bytes as unsigned numbers (R133, R135). -/
theorem skipIf_beq_moves (s : State) :
    ∃ t, skipIf (a == b) s = .next t ∧ FrameBut [.pc] s t ∧
      (a.toNat = b.toNat → t.pc = s.pc + 4) ∧ (a.toNat ≠ b.toNat → t.pc = s.pc + 2) :=
  skipIf_moves (beq_iff_eq.trans BitVec.toNat_eq) s

/-- The not-equal skips compare two bytes as unsigned numbers (R134, R136). -/
theorem skipIf_bne_moves (s : State) :
    ∃ t, skipIf (a != b) s = .next t ∧ FrameBut [.pc] s t ∧
      (a.toNat ≠ b.toNat → t.pc = s.pc + 4) ∧ (a.toNat = b.toNat → t.pc = s.pc + 2) := by
  obtain ⟨t, ht, hframe, hne, heq⟩ := skipIf_moves (c := a != b) (bne_iff_ne.trans BitVec.toNat_ne) s
  exact ⟨t, ht, hframe, hne, fun h => heq (not_not_intro h)⟩

end

/-! ## The obligations -/

/-- Settles O16: the literal, widened, is the new `pc`, the one part a jump sets. -/
theorem jumpGoesToLiteral : Obligations.JumpGoesToLiteral := fun addr s =>
  ⟨decodeWord_jump addr, _, goTo_eq (addrOperand addr) s, toNat_addrOperand addr, frameBut_setPc s _⟩

/-- Settles O17: the sum of the literal and `x[0]` fits 16 bits. -/
theorem jumpOffsetAddsRegisterZero : Obligations.JumpOffsetAddsRegisterZero := fun addr s =>
  ⟨decodeWord_jumpOffset addr, _, goTo_eq (addrOperand addr + regOperand16 s 0) s,
    toNat_addrOperand_add_regOperand16 addr s 0, frameBut_setPc s _⟩

/-- Settles O21: each is a skip on a comparison of the register with the literal. -/
theorem immediateSkipsCompare : Obligations.ImmediateSkipsCompare := fun x kk s =>
  ⟨decodeWord_skipEqImm x kk, decodeWord_skipNeImm x kk, skipIf_beq_moves s, skipIf_bne_moves s⟩

/-- Settles O22: each is a skip on a comparison of the registers, and a register equals itself. -/
theorem registerSkipsCompare : Obligations.RegisterSkipsCompare := by
  intro x y n s
  obtain ⟨t, ht, hframe, heq, hne⟩ := skipIf_beq_moves (a := s.reg x) (b := s.reg y) s
  obtain ⟨u, hu, hframe', hne', heq'⟩ := skipIf_bne_moves (a := s.reg x) (b := s.reg y) s
  have same (hxy : x = y) : (s.reg x).toNat = (s.reg y).toNat := by rw [hxy]
  exact ⟨decodeWord_skipEqReg x y n, decodeWord_skipNeReg x y n,
    ⟨t, ht, hframe, heq, hne, fun hxy => heq (same hxy)⟩,
    u, hu, hframe', hne', heq', fun hxy => heq' (same hxy)⟩

end Sys2Proof
end

section
/-! PROOF. Register arithmetic (R152, R153, R158 of 42_alu.md): the words, and what a result, alone or with its flag,
changes. -/

namespace Sys2Proof

open Machine

/-! ## The words (R86) -/

theorem decodeWord_loadImm (x : RegIdx) (kk : Byte) : decodeWord (encodeXKK 0x6#4 x kk) = .ok (.loadImm x kk) := by
  simp only [decodeWord, opField_encodeXKK, xField_encodeXKK, kkField_encodeXKK]

theorem decodeWord_addImm (x : RegIdx) (kk : Byte) : decodeWord (encodeXKK 0x7#4 x kk) = .ok (.addImm x kk) := by
  simp only [decodeWord, opField_encodeXKK, xField_encodeXKK, kkField_encodeXKK]

theorem decodeWord_addReg (x y : RegIdx) : decodeWord (encodeXYN 0x8#4 x y 0x4#4) = .ok (.addReg x y) := by
  rw [decodeWord_of_family8 (opField_encodeXYN ..)]
  simp only [decodeFamily8, nField_encodeXYN, xField_encodeXYN, yField_encodeXYN]

/-! ## The carry -/

theorem flagByte_carryOut_of_gt {a b : Byte} (h : a.toNat + b.toNat > 255) : flagByte (carryOut a b) = 0x01 := by
  simp [carryOut, flagByte, h]

theorem flagByte_carryOut_of_le {a b : Byte} (h : a.toNat + b.toNat ≤ 255) : flagByte (carryOut a b) = 0x00 := by
  simp [carryOut, flagByte, h]

/-! ## What an instruction with a register result changes -/

/-- A result without a flag: VF is one of the unchanged parts unless it is the destination (R152, R153). -/
theorem advance_setReg (s : State) (x : RegIdx) (v : Byte) :
    ∃ t, advance (s.setReg x v) = .next t ∧ t.reg x = v ∧ t.pc = s.pc + 2 ∧ FrameBut [.pc, .reg x] s t := by
  refine ⟨_, advance_eq _, by simp, rfl, fun p hp => ?_⟩
  cases p with
  | reg r =>
    have hr : r ≠ x := by simpa using hp
    simp [Part.same, hr]
  | pc => simp at hp
  | _ => rfl

/-- A result with a flag: VF holds the flag even where it is the destination (R151). -/
theorem advance_setResultFlag (s : State) (x : RegIdx) (v : Byte) (f : Bool) :
    ∃ t, advance (s.setResultFlag x v f) = .next t ∧ (x ≠ VF → t.reg x = v) ∧ t.reg VF = flagByte f ∧
      t.pc = s.pc + 2 ∧ FrameBut [.pc, .reg x, .reg VF] s t := by
  refine ⟨_, advance_eq _, fun hx => by simp [hx], by simp, rfl, fun p hp => ?_⟩
  cases p with
  | reg r =>
    obtain ⟨hx, hvf⟩ : r ≠ x ∧ r ≠ VF := by simpa using hp
    simp [Part.same, hx, hvf]
  | pc => simp at hp
  | _ => rfl

/-! ## The obligations -/

/-- Settles O23: each writes one register, and the sum of two bytes wraps at 256 (R150). -/
theorem immediatesLoadAndAdd : Obligations.ImmediatesLoadAndAdd := by
  intro x kk s
  obtain ⟨t, ht, hreg, hpc, hframe⟩ := advance_setReg s x (s.reg x + kk)
  have hsum : (t.reg x).toNat = ((s.reg x).toNat + kk.toNat) % 256 := by rw [hreg, BitVec.toNat_add]
  exact ⟨decodeWord_loadImm x kk, decodeWord_addImm x kk, advance_setReg s x kk, t, ht, hsum, hpc, hframe⟩

/-- Settles O25: the sum and the carry are both of the old operands, and the carry is written last. -/
theorem addRegSumAndCarry : Obligations.AddRegSumAndCarry := by
  intro x y s
  obtain ⟨t, ht, hreg, hflag, hpc, hframe⟩ :=
    advance_setResultFlag s x (s.reg x + s.reg y) (carryOut (s.reg x) (s.reg y))
  have hsum (hx : x ≠ VF) : (t.reg x).toNat = ((s.reg x).toNat + (s.reg y).toNat) % 256 := by
    rw [hreg hx, BitVec.toNat_add]
  exact ⟨decodeWord_addReg x y, t, ht, hsum, fun h => hflag.trans (flagByte_carryOut_of_gt h),
    fun h => hflag.trans (flagByte_carryOut_of_le h), hpc, hframe⟩

end Sys2Proof
end

section
/-! PROOF. Frames put together from one frame per update of the state (R10, R115). -/

namespace Sys2Proof

open Machine

theorem Part.same_trans {p : Part} {s t u : State} (h : p.same s t) (h' : p.same t u) : p.same s u := by
  cases p <;> exact h'.trans h

section
variable {c d : Part → Prop} {s t u : State}

/-- Two changes in a row change what either of them changes. -/
theorem Frame.trans (h : Frame c s t) (h' : Frame d t u) : Frame (fun p => c p ∨ d p) s u :=
  fun p hp => Part.same_trans (h p (mt .inl hp)) (h' p (mt .inr hp))

theorem Frame.mono (h : Frame c s t) (hcd : ∀ p, c p → d p) : Frame d s t :=
  fun p hp => h p (mt (hcd p) hp)

end

theorem frameBut_setI (s : State) (a : Word) : FrameBut [.index] s (s.setI a) := by
  intro p hp
  cases p with
  | index => exact absurd (List.mem_singleton_self _) hp
  | _ => rfl

/-- Writing a run of bytes inside the space changes those bytes alone (R53, R59). -/
theorem frame_setMem_writeBytes (s : State) {a : Nat} {l : List Byte} (h : a + l.length ≤ Config.memSize) :
    Frame (fun p => ∃ b, a ≤ b ∧ b < a + l.length ∧ p = .byte b) s (s.setMem (writeBytes s.mem a l)) := by
  intro p hp
  cases p with
  | byte b =>
    have outside : ¬(a ≤ b ∧ b < a + l.length) := fun ⟨hab, hb⟩ => hp ⟨b, hab, hb, rfl⟩
    exact (readByte_writeBytes s.mem a b l h).trans (if_neg outside)
  | _ => rfl

/-- A register file written whole changes the registers where it differs from the old one. -/
theorem frame_setRegs (s : State) {r : Vector Byte 16} {c : RegIdx → Prop} (h : ∀ i, ¬c i → r[i.val] = s.reg i) :
    Frame (fun p => ∃ i, c i ∧ p = .reg i) s (s.setRegs r) := by
  intro p hp
  cases p with
  | reg i => exact h i fun hi => hp ⟨i, hi, rfl⟩
  | _ => rfl

end Sys2Proof
end

section
/-! PROOF. The index register and memory (R181, R184 to R186 of 43_index_memory.md): the words, the range check, and the
parts a store and a load change. -/

namespace Sys2Proof

open Machine

/-! ## The words (R86) -/

theorem decodeWord_setIndex (addr : BitVec 12) : decodeWord (encodeNNN 0xA#4 addr) = .ok (.setIndex addr) := by
  simp only [decodeWord, opField_encodeNNN, nnnField_encodeNNN]

theorem decodeWord_storeBcd (x : RegIdx) : decodeWord (encodeXKK 0xF#4 x 0x33#8) = .ok (.storeBcd x) := by
  rw [decodeWord_of_familyF (opField_encodeXKK ..)]
  simp only [decodeFamilyF, kkField_encodeXKK, xField_encodeXKK]

theorem decodeWord_storeRegisters (x : RegIdx) :
    decodeWord (encodeXKK 0xF#4 x 0x55#8) = .ok (.storeRegisters x) := by
  rw [decodeWord_of_familyF (opField_encodeXKK ..)]
  simp only [decodeFamilyF, kkField_encodeXKK, xField_encodeXKK]

theorem decodeWord_loadRegisters (x : RegIdx) :
    decodeWord (encodeXKK 0xF#4 x 0x65#8) = .ok (.loadRegisters x) := by
  rw [decodeWord_of_familyF (opField_encodeXKK ..)]
  simp only [decodeFamilyF, kkField_encodeXKK, xField_encodeXKK]

/-! ## The range check (R57, R58) -/

section
variable {s : State} {n : Nat} (k : Result)

theorem checked_rangeError_of_le (h : s.I.toNat + n ≤ Config.memSize) : checked (rangeError s.I n) s k = k := by
  rw [rangeError_eq_none.mpr (.inr h), checked]

theorem checked_rangeError_of_gt (hn : n ≠ 0) (h : Config.memSize < s.I.toNat + n) :
    checked (rangeError s.I n) s k = .next (s.setErr (some (.memOutOfRange (max s.I.toNat 0x1000)))) := by
  cases he : rangeError s.I n with
  | none => exact absurd (rangeError_eq_none.mp he) (by omega)
  | some e =>
    obtain ⟨-, -, rfl⟩ := rangeError_eq_some he
    exact raise_eq _ s

end

/-! ## What is written -/

/-- The byte at offset `k` of a run written inside the space (R53). -/
theorem readByte_writeBytes_offset (m : Memory) {a k : Nat} {l : List Byte} (hk : k < l.length)
    (h : a + l.length ≤ Config.memSize) : readByte (writeBytes m a l) (a + k) = l.getD k 0 := by
  rw [readByte_writeBytes m a (a + k) l h, if_pos (by omega), Nat.add_sub_cancel_left]

/-- Each decimal digit fits its byte (R184). -/
theorem toNat_bcdDigits (v : Byte) :
    ((bcdDigits v).getD 0 0).toNat = v.toNat / 100 ∧ ((bcdDigits v).getD 1 0).toNat = v.toNat / 10 % 10 ∧
      ((bcdDigits v).getD 2 0).toNat = v.toNat % 10 := by
  have hv := v.isLt
  simp only [bcdDigits, List.getD_cons_zero, List.getD_cons_succ, BitVec.toNat_ofNat]
  omega

/-- The digits read back from where they were written (R184). -/
theorem toNat_readByte_writeBytes_bcdDigits (m : Memory) (v : Byte) {a : Nat} (h : a + 3 ≤ Config.memSize) :
    (readByte (writeBytes m a (bcdDigits v)) a).toNat = v.toNat / 100 ∧
      (readByte (writeBytes m a (bcdDigits v)) (a + 1)).toNat = v.toNat / 10 % 10 ∧
      (readByte (writeBytes m a (bcdDigits v)) (a + 2)).toNat = v.toNat % 10 := by
  have digit (k : Nat) (hk : k < 3) :
      (readByte (writeBytes m a (bcdDigits v)) (a + k)).toNat = ((bcdDigits v).getD k 0).toNat := by
    rw [readByte_writeBytes_offset m hk h]
  obtain ⟨hundreds, tens, ones⟩ := toNat_bcdDigits v
  exact ⟨(digit 0 (by decide)).trans hundreds, (digit 1 (by decide)).trans tens, (digit 2 (by decide)).trans ones⟩

/-- The registers read back from where they were written (R185, R187). -/
theorem readByte_writeBytes_regsUpTo (m : Memory) (s : State) {a : Nat} {x i : RegIdx}
    (h : a + (x.val + 1) ≤ Config.memSize) (hi : i ≤ x) :
    readByte (writeBytes m a (regsUpTo s x)) (a + i.val) = s.reg i := by
  rw [← regsUpTo_length s x] at h
  have hlt : i.val < (regsUpTo s x).length := by rw [regsUpTo_length]; exact Nat.lt_succ_of_le hi
  rw [readByte_writeBytes_offset m hlt h, regsUpTo_getD s x i hi]

/-- `I` moved past the last register's byte does not wrap (R185, R186). -/
theorem toNat_I_add_succ {s : State} {x : RegIdx} (h : s.I.toNat + x.val ≤ 0xFFF) :
    (s.I + BitVec.ofNat 16 (x.val + 1)).toNat = s.I.toNat + x.val + 1 := by
  rw [BitVec.toNat_add, BitVec.toNat_ofNat]
  omega

/-- An instruction that writes `I` alone (R181 to R183). -/
theorem advance_setI (s : State) (a : Word) :
    ∃ t, advance (s.setI a) = .next t ∧ t.I = a ∧ t.pc = s.pc + 2 ∧ FrameBut [.pc, .index] s t :=
  ⟨_, advance_eq _, rfl, rfl,
    ((frameBut_setI s a).trans (frameBut_setPc _ _)).mono fun _ hp => by simpa [or_comm] using hp⟩

/-! ## The obligations -/

/-- Settles O29: the literal, widened, is the new `I`, and 12 bits reach no further than 0xFFF. -/
theorem setIndexWritesLiteral : Obligations.SetIndexWritesLiteral := by
  intro addr s
  obtain ⟨t, ht, hI, hpc, hframe⟩ := advance_setI s (addrOperand addr)
  have hlit : t.I.toNat = addr.toNat := by rw [hI, toNat_addrOperand]
  have hle : t.I.toNat ≤ 0xFFF := hlit ▸ Nat.le_of_lt_succ addr.isLt
  exact ⟨decodeWord_setIndex addr, t, ht, hlit, hle, hpc, hframe⟩

/-- Settles O31: the three digits are one run of bytes from `I`. -/
theorem storeBcdWritesDigits : Obligations.StoreBcdWritesDigits := by
  intro x s
  refine ⟨decodeWord_storeBcd x, fun hle => ?_,
    fun hgt => checked_rangeError_of_gt _ (by decide) (by simp only [Config.memSize]; omega)⟩
  have hfit : s.I.toNat + 3 ≤ Config.memSize := by simp only [Config.memSize]; omega
  obtain ⟨hundreds, tens, ones⟩ := toNat_readByte_writeBytes_bcdDigits s.mem (s.reg x) hfit
  refine ⟨_, (checked_rangeError_of_le _ hfit).trans (advance_eq _), rfl, hundreds, tens, ones, ?_⟩
  refine ((frame_setMem_writeBytes s hfit).trans (frameBut_setPc _ _)).mono ?_
  rintro p (⟨b, hlo, hhi, rfl⟩ | hp)
  · have : b = s.I.toNat ∨ b = s.I.toNat + 1 ∨ b = s.I.toNat + 2 := by
      rw [bcdDigits_length] at hhi; omega
    simpa using this
  · exact List.mem_cons.mpr (.inl (List.mem_singleton.mp hp))

/-- Settles O32: the registers are one run of bytes from the old `I`. -/
theorem storeRegistersCopiesOut : Obligations.StoreRegistersCopiesOut := by
  intro x s
  refine ⟨decodeWord_storeRegisters x, fun hle => ?_,
    fun hgt => checked_rangeError_of_gt _ (Nat.succ_ne_zero _) (by simp only [Config.memSize]; omega)⟩
  have hfit : s.I.toNat + (x.val + 1) ≤ Config.memSize := by simp only [Config.memSize]; omega
  refine ⟨_, (checked_rangeError_of_le _ hfit).trans (advance_eq _), rfl, toNat_I_add_succ hle,
    fun i hi => readByte_writeBytes_regsUpTo s.mem s hfit hi, ?_⟩
  rw [← regsUpTo_length s x] at hfit
  refine (((frame_setMem_writeBytes s hfit).trans (frameBut_setI _ _)).trans (frameBut_setPc _ _)).mono ?_
  rintro p ((⟨b, hlo, hhi, rfl⟩ | hp) | hp)
  · rw [regsUpTo_length] at hhi
    exact .inr (.inr ⟨b, hlo, by omega, rfl⟩)
  · exact .inr (.inl (List.mem_singleton.mp hp))
  · exact .inl (List.mem_singleton.mp hp)

/-- Settles O33: register `x[i]`, up to `x[X]`, is the byte at offset `i` from the old `I`. -/
theorem loadRegistersCopiesIn : Obligations.LoadRegistersCopiesIn := by
  intro x s
  refine ⟨decodeWord_loadRegisters x, fun hle => ?_,
    fun hgt => checked_rangeError_of_gt _ (Nat.succ_ne_zero _) (by simp only [Config.memSize]; omega)⟩
  have hfit : s.I.toNat + (x.val + 1) ≤ Config.memSize := by simp only [Config.memSize]; omega
  have loaded (i : RegIdx) (hi : i ≤ x) : (regsLoaded s x)[i.val] = readByte s.mem (s.I.toNat + i.val) :=
    (regsLoaded_get s x i).trans (if_pos hi)
  have higher (i : RegIdx) (hi : ¬i ≤ x) : (regsLoaded s x)[i.val] = s.reg i :=
    (regsLoaded_get s x i).trans (if_neg hi)
  refine ⟨_, (checked_rangeError_of_le _ hfit).trans (advance_eq _), rfl, toNat_I_add_succ hle, loaded, ?_⟩
  refine (((frame_setRegs s higher).trans (frameBut_setI _ _)).trans (frameBut_setPc _ _)).mono ?_
  rintro p ((hreg | hp) | hp)
  · exact .inr (.inr hreg)
  · exact .inr (.inl (List.mem_singleton.mp hp))
  · exact .inl (List.mem_singleton.mp hp)

end Sys2Proof
end

section
/-! PROOF. The display (R201 of 44_display.md): the parts an update of the display or of `redraw` changes, and
`clear-screen`. -/

namespace Sys2Proof

open Machine

theorem frameBut_setRedraw (s : State) (b : Bool) : FrameBut [.redraw] s (s.setRedraw b) := by
  intro p hp
  cases p with
  | redraw => exact absurd (List.mem_singleton_self _) hp
  | _ => rfl

/-- A display written whole changes cells alone. -/
theorem frame_setDisp (s : State) (d : Display) : Frame (fun p => ∃ r c, p = .cell r c) s (s.setDisp d) := by
  intro p hp
  cases p with
  | cell r c => exact absurd ⟨r, c, rfl⟩ hp
  | _ => rfl

/-- Settles O36: the dark display, `redraw` and `pc` are the three updates, one frame each. -/
theorem clearScreenDarkens : Obligations.ClearScreenDarkens := by
  intro s
  have hword : decodeWord 0b0000000011100000#16 = .ok .clearScreen := by decide
  have hexec : exec .clearScreen s = .next (((s.setDisp darkDisplay).setRedraw true).setPc (s.pc + 2)) := advance_eq _
  refine ⟨hword, _, hexec, cellAt_darkDisplay, rfl, rfl, ?_⟩
  refine (((frame_setDisp s _).trans (frameBut_setRedraw _ _)).trans (frameBut_setPc _ _)).mono ?_
  rintro p ((hcell | hp) | hp)
  · exact .inr (.inr hcell)
  · exact .inr (.inl (List.mem_singleton.mp hp))
  · exact .inl (List.mem_singleton.mp hp)

end Sys2Proof
end

section
/-! PROOF. The delay timer's instructions (R222, R224 of 45_keys_timers.md): their words, and what writing the timer
changes. -/

namespace Sys2Proof

open Machine

/-! ## The words (R86) -/

theorem decodeWord_loadDelay (x : RegIdx) : decodeWord (encodeXKK 0xF#4 x 0x07#8) = .ok (.loadDelay x) := by
  rw [decodeWord_of_familyF (opField_encodeXKK ..)]
  simp only [decodeFamilyF, kkField_encodeXKK, xField_encodeXKK]

theorem decodeWord_setDelay (x : RegIdx) : decodeWord (encodeXKK 0xF#4 x 0x15#8) = .ok (.setDelay x) := by
  rw [decodeWord_of_familyF (opField_encodeXKK ..)]
  simp only [decodeFamilyF, kkField_encodeXKK, xField_encodeXKK]

/-! ## What writing the delay timer changes -/

theorem frameBut_setDT (s : State) (v : Byte) : FrameBut [.delay] s (s.setDT v) := by
  intro p hp
  cases p with
  | delay => exact absurd (List.mem_singleton_self _) hp
  | _ => rfl

/-- An instruction that writes `DT` alone: `snd_ended` is one of the unchanged parts, whatever is written (R224). -/
theorem advance_setDT (s : State) (v : Byte) :
    ∃ t, advance (s.setDT v) = .next t ∧ t.DT = v ∧ t.pc = s.pc + 2 ∧ FrameBut [.pc, .delay] s t :=
  ⟨_, advance_eq _, rfl, rfl,
    ((frameBut_setDT s v).trans (frameBut_setPc _ _)).mono fun _ hp => by simpa [or_comm] using hp⟩

/-! ## The obligation -/

/-- Settles O42: the read is a register result that leaves `DT` in its frame, the write changes `DT` and `pc` alone. -/
theorem delayTimerReadAndSet : Obligations.DelayTimerReadAndSet := fun x s =>
  ⟨decodeWord_loadDelay x, decodeWord_setDelay x, advance_setReg s x s.DT, advance_setDT s (s.reg x)⟩

end Sys2Proof
end

section
/-! PROOF. The host's operations on one flag (R258, R260, R261 of 60_exceptions.md): what each changes, healthy or
halted. -/

namespace Sys2Proof

open Machine

/-! ## Frames of the updates the host makes -/

theorem Frame.refl (c : Part → Prop) (s : State) : Frame c s s := fun p _ => by cases p <;> rfl

theorem frameBut_setKey (s : State) (k : KeyIdx) (b : Bool) : FrameBut [.key k] s (s.setKey k b) := by
  intro p hp
  cases p with
  | key j =>
    have hj : j ≠ k := by simpa using hp
    exact (setKey_get s k j b).trans (if_neg hj)
  | _ => rfl

theorem frameBut_setST (s : State) (v : Byte) : FrameBut [.sound] s (s.setST v) := by
  intro p hp
  cases p with
  | sound => exact absurd (List.mem_singleton_self _) hp
  | _ => rfl

theorem frameBut_setSndEnded (s : State) (b : Bool) : FrameBut [.sndEnded] s (s.setSndEnded b) := by
  intro p hp
  cases p with
  | sndEnded => exact absurd (List.mem_singleton_self _) hp
  | _ => rfl

/-! ## The operations, in a healthy state and in a halted one, which they leave alone (R247) -/

section
variable {s : State} (k : KeyIdx)

theorem press_of_healthy (hs : Healthy s) : press k s = s.setKey k true := if_pos hs

theorem press_of_halted (hs : ¬Healthy s) : press k s = s := if_neg hs

theorem release_of_healthy (hs : Healthy s) : release k s = s.setKey k false := if_pos hs

theorem release_of_halted (hs : ¬Healthy s) : release k s = s := if_neg hs

end

/-! ## What they change, in any state -/

section
variable (k : KeyIdx) (s : State)

theorem press_frame : FrameBut [.key k] s (press k s) := by
  unfold press
  split
  · exact frameBut_setKey s k true
  · exact Frame.refl _ s

theorem release_frame : FrameBut [.key k] s (release k s) := by
  unfold release
  split
  · exact frameBut_setKey s k false
  · exact Frame.refl _ s

theorem consumeRedraw_frame : FrameBut [.redraw] s (consumeRedraw s).1 := by
  unfold consumeRedraw
  split
  · exact frameBut_setRedraw s false
  · exact Frame.refl _ s

theorem consumeSoundEnded_frame : FrameBut [.sndEnded] s (consumeSoundEnded s).1 := by
  unfold consumeSoundEnded
  split
  · exact frameBut_setSndEnded s false
  · exact Frame.refl _ s

end

/-! ## The obligation -/

/-- Settles O46: a healthy press or release is one update of the key flag, a halted one is none. -/
theorem pressAndReleaseOneKey : Obligations.PressAndReleaseOneKey := by
  refine fun k s => ⟨fun hs => ?_, fun hs => ⟨press_of_halted k hs, release_of_halted k hs⟩⟩
  refine ⟨?_, press_frame k s, ?_, release_frame k s⟩
  · rw [press_of_healthy k hs, setKey_get, if_pos rfl]
  · rw [release_of_healthy k hs, setKey_get, if_pos rfl]

end Sys2Proof
end

section
/-! PROOF. The timers (R255 of 60_exceptions.md): a tick as one update of each timer and of `snd_ended`, and that only
`set-delay` and `set-sound` write a timer in a cycle. -/

namespace Sys2Proof

open Machine

/-! ## A tick -/

/-- A timer one tick on: down by one, stopping at 0 (R255). -/
def countDown (v : Byte) : Byte := if v = 0 then 0 else v - 1

theorem toNat_countDown (v : Byte) : (countDown v).toNat = v.toNat - 1 := by
  unfold countDown
  split
  · next h => simp [h]
  · next h => bv_omega

/-- The sound timer goes from 1 to 0 in a tick exactly when it is 1 (R255). -/
theorem sub_one_eq_zero_iff_toNat {v : Byte} : v - 1 = 0 ↔ v.toNat = 1 := by bv_omega

section
variable (s : State)

theorem tickDelay_eq : tickDelay s = s.setDT (countDown s.DT) := by
  unfold tickDelay countDown
  split
  · next h => rw [← h]; rfl
  · rfl

theorem tickSound_eq :
    tickSound s = (s.setST (countDown s.ST)).setSndEnded (s.sndEnded || decide (s.ST.toNat = 1)) := by
  unfold tickSound countDown
  split
  · next h0 =>
    have hno : decide (s.ST.toNat = 1) = false := by simp [h0]
    rw [hno, Bool.or_false, ← h0]
    rfl
  · split
    · next h1 => rw [decide_eq_true (sub_one_eq_zero_iff_toNat.mp h1), Bool.or_true]
    · next h1 => rw [decide_eq_false (mt sub_one_eq_zero_iff_toNat.mpr h1), Bool.or_false]; rfl

end

section
variable {s : State}

/-- A healthy tick as three updates, whatever the timers hold (R255). -/
theorem tick_of_healthy (hs : Healthy s) :
    tick s = ((s.setDT (countDown s.DT)).setST (countDown s.ST)).setSndEnded
      (s.sndEnded || decide (s.ST.toNat = 1)) := by
  rw [tick, if_pos (show s.err = none from hs), tickSound_eq, tickDelay_eq]
  rfl

theorem tick_of_halted (hs : ¬Healthy s) : tick s = s := if_neg hs

theorem toNat_tick_DT (hs : Healthy s) : (tick s).DT.toNat = s.DT.toNat - 1 := by
  rw [tick_of_healthy hs]
  exact toNat_countDown s.DT

theorem toNat_tick_ST (hs : Healthy s) : (tick s).ST.toNat = s.ST.toNat - 1 := by
  rw [tick_of_healthy hs]
  exact toNat_countDown s.ST

theorem tick_sndEnded (hs : Healthy s) : (tick s).sndEnded = true ↔ s.sndEnded = true ∨ s.ST.toNat = 1 := by
  rw [tick_of_healthy hs, setSndEnded_sndEnded, Bool.or_eq_true, decide_eq_true_iff]

end

theorem tick_frame (s : State) : FrameBut [.delay, .sound, .sndEnded] s (tick s) := by
  by_cases hs : Healthy s
  · rw [tick_of_healthy hs]
    refine (((frameBut_setDT s _).trans (frameBut_setST _ _)).trans (frameBut_setSndEnded _ _)).mono fun p hp => ?_
    simpa [or_assoc] using hp
  · rw [tick_of_halted hs]
    exact Frame.refl _ s

/-! ## The timers in a cycle -/

/-- Neither timer changes. -/
def SameTimers (s t : State) : Prop := t.DT = s.DT ∧ t.ST = s.ST

/-- Each timer is kept but by its own set instruction, which writes the register's value (R224, R225). -/
def TimersAfter (i : Instr) (s t : State) : Prop :=
  (t.DT = s.DT ∨ ∃ x, i = .setDelay x ∧ t.DT = s.reg x) ∧ (t.ST = s.ST ∨ ∃ x, i = .setSound x ∧ t.ST = s.reg x)

section
variable {s t u : State}

theorem TimersAfter.of_sameTimers {i : Instr} : SameTimers s t → TimersAfter i s t := And.imp .inl .inl

theorem FrameBut.sameTimers {c : List Part} (h : FrameBut c s t) (hd : .delay ∉ c) (hst : .sound ∉ c) :
    SameTimers s t := ⟨h .delay hd, h .sound hst⟩

/-! One lemma per way an instruction ends: `u` is the state with its effect, before `pc` moves. -/

theorem sameTimers_raise {e : ErrorValue} (h : raise e s = .next t) : SameTimers s t := by
  cases h; exact ⟨rfl, rfl⟩

theorem sameTimers_advance (h : advance u = .next t) (hu : SameTimers s u) : SameTimers s t := by
  cases h; exact hu

theorem sameTimers_skipIf {c : Bool} (h : skipIf c s = .next t) : SameTimers s t := by
  cases h; exact ⟨rfl, rfl⟩

theorem sameTimers_goTo {a : Word} (h : goTo a s = .next t) : SameTimers s t := by
  cases h; exact ⟨rfl, rfl⟩

theorem sameTimers_checked {e : Option ErrorValue} {k : Result} (h : checked e s k = .next t)
    (hk : k = .next t → SameTimers s t) : SameTimers s t := by
  rcases checked_next h with ⟨-, h⟩ | ⟨v, -, rfl⟩
  · exact hk h
  · exact ⟨rfl, rfl⟩

theorem execWaitKey_sameTimers {x : RegIdx} (h : execWaitKey x s = .next t) : SameTimers s t := by
  unfold execWaitKey at h
  split at h
  · exact sameTimers_advance h ⟨rfl, rfl⟩
  · cases h; exact ⟨rfl, rfl⟩

/-- No instruction but `set-delay` and `set-sound` writes a timer. -/
theorem exec_timersAfter {i : Instr} (h : exec i s = .next t) : TimersAfter i s t := by
  cases i with
  | setDelay x => cases h; exact ⟨.inr ⟨x, rfl, rfl⟩, .inl rfl⟩
  | setSound x => cases h; exact ⟨.inl rfl, .inr ⟨x, rfl, rfl⟩⟩
  | ret => rcases exec_ret_cases h with ⟨-, rfl⟩ | ⟨-, rfl⟩ <;> exact ⟨.inl rfl, .inl rfl⟩
  | call => rcases exec_call_cases h with ⟨-, rfl⟩ | ⟨-, rfl⟩ <;> exact ⟨.inl rfl, .inl rfl⟩
  | jump | jumpOffset => exact .of_sameTimers (sameTimers_goTo h)
  | skipEqImm | skipNeImm | skipEqReg | skipNeReg => exact .of_sameTimers (sameTimers_skipIf h)
  | skipKeyPressed | skipKeyNotPressed => exact .of_sameTimers (sameTimers_checked h sameTimers_skipIf)
  | waitKey => exact .of_sameTimers (execWaitKey_sameTimers h)
  | draw | storeBcd | storeRegisters =>
    exact .of_sameTimers (sameTimers_checked h fun h => sameTimers_advance h ⟨rfl, rfl⟩)
  | loadRegisters =>
    exact .of_sameTimers (sameTimers_checked h fun h => sameTimers_advance h ⟨by simp, by simp⟩)
  | clearScreen | loadImm | addImm | loadReg | orReg | andReg | xorReg | addReg | subReg | shiftRight | subnReg
  | shiftLeft | setIndex | random | loadDelay | addIndex | fontAddress =>
    exact .of_sameTimers (sameTimers_advance h ⟨rfl, rfl⟩)

/-- A halted cycle, and one that raises in its fetch or its dispatch, keeps both timers; any other changes them as the
fetched instruction does (R111 to R113, R116). -/
theorem cycle_timers (h : cycle s = .next t) :
    SameTimers s t ∨ ∃ i, decodeWord (fetchWord s) = .ok i ∧ TimersAfter i s t := by
  cases herr : s.err with
  | some e =>
    rw [cycle_of_halted herr] at h
    cases h; exact .inl ⟨rfl, rfl⟩
  | none =>
    rw [cycle_of_healthy herr] at h
    rcases checked_next h with ⟨-, h⟩ | ⟨v, -, rfl⟩
    · cases hd : decodeWord (fetchWord s) with
      | ok i => exact .inr ⟨i, rfl, exec_timersAfter ((decodeAndRun_of_ok hd).symm.trans h)⟩
      | error e => exact .inl (sameTimers_raise ((decodeAndRun_of_error hd).symm.trans h))
    · exact .inl ⟨rfl, rfl⟩

end

/-! ## The obligation -/

/-- Settles O44: a healthy tick is its three updates; a cycle writes a timer only through the fetched instruction; the
timers lie in the frames of press, release and the consume operations. -/
theorem tickCountsDown : Obligations.TickCountsDown := by
  refine fun s => ⟨fun hs => ⟨toNat_tick_DT hs, toNat_tick_ST hs, tick_sndEnded hs, tick_frame s⟩,
    fun hs => tick_of_halted hs, fun t h => ?_, fun k t ht => ?_⟩
  · rcases cycle_timers h with ⟨hdt, hst⟩ | ⟨i, hi, hdt, hst⟩
    · exact ⟨.inl hdt, .inl hst⟩
    · exact ⟨hdt.imp_right fun ⟨x, hx, hv⟩ => ⟨x, hx ▸ hi, hv⟩,
        hst.imp_right fun ⟨x, hx, hv⟩ => ⟨x, hx ▸ hi, hv⟩⟩
  · simp only [List.mem_cons, List.not_mem_nil, or_false] at ht
    rcases ht with rfl | rfl | rfl | rfl
    · exact (press_frame k s).sameTimers (by simp) (by simp)
    · exact (release_frame k s).sameTimers (by simp) (by simp)
    · exact (consumeRedraw_frame s).sameTimers (by simp) (by simp)
    · exact (consumeSoundEnded_frame s).sameTimers (by simp) (by simp)

end Sys2Proof
end

section
/-! PROOF. The entry point (R292 of 70_reset_and_hazards.md): the word fetched from where a run of bytes was written, and
the first fetch after reset and load. -/

namespace Sys2Proof

open Machine

/-- A fetch from where a run of bytes begins takes its first two, the first of them high (R52, R111). -/
theorem fetchWord_of_mem_eq_writeBytes {s : State} {m : Memory} {hi lo : Byte} {rest : List Byte}
    (hmem : s.mem = writeBytes m s.pc.toNat (hi :: lo :: rest))
    (hfit : s.pc.toNat + (hi :: lo :: rest).length ≤ Config.memSize) : fetchWord s = hi ++ lo := by
  have first : readByte s.mem s.pc.toNat = hi := by
    rw [hmem]; exact readByte_writeBytes_offset (k := 0) m (by simp) hfit
  have second : readByte s.mem (s.pc.toNat + 1) = lo := by
    rw [hmem]; exact readByte_writeBytes_offset (k := 1) m (by simp) hfit
  simp only [fetchWord, wordOfBytes, first, second]

/-- An image of at most MAX_IMAGE bytes ends inside the space (R5, R293). -/
theorem progBase_add_length_le {image : List Byte} (h : image.length ≤ Config.maxImage) :
    Config.progBase + image.length ≤ Config.memSize := Nat.add_le_add_left h Config.progBase

/-! ## The obligation -/

/-- Settles O51: reset leaves `pc` at the load address, even and in range, and the load keeps it there. -/
theorem entryPointIsFixed : Obligations.EntryPointIsFixed := by
  intro font hi lo rest s hlen
  have himage : (hi :: lo :: rest).length ≤ Config.maxImage := hlen
  have fetchable : (0x0200#16).toNat ≤ 0xFFE ∧ (0x0200#16).getLsbD 0 = false := by decide
  exact ⟨_, loadProgram_of_le himage (resetOp font s), rfl,
    fetchWord_of_mem_eq_writeBytes rfl (progBase_add_length_le himage), rfl, fetchable⟩

end Sys2Proof
end

section
/-! PROOF. Decoding and encoding (30_encoding.md): each undoes the other but for the ignored bits of R87, and the words
that select no row of the opcode map are those R90 lists. -/

namespace Sys2Proof

/-! ## Decoding the assembled word (R94) -/

/-- Every operand field of the assembled word is the operand, and the fixed fields select the instruction's arm. -/
theorem decodeWord_encode {i : Instr} (hwf : i.wellFormed = true) : decodeWord (encode i) = .ok i := by
  cases i with
  | clearScreen | ret => decide
  | jump | call | setIndex | jumpOffset => simp only [encode, decodeWord, opField_encodeNNN, nnnField_encodeNNN]
  | skipEqImm | skipNeImm | loadImm | addImm | random =>
    simp only [encode, decodeWord, opField_encodeXKK, xField_encodeXKK, kkField_encodeXKK]
  | skipEqReg | skipNeReg =>
    simp only [encode, decodeWord, opField_encodeXYN, xField_encodeXYN, yField_encodeXYN]
  | draw x y n =>
    have hn : n < 2 ^ 4 := of_decide_eq_true hwf
    simp only [encode, decodeWord, opField_encodeXYN, xField_encodeXYN, yField_encodeXYN, nField_encodeXYN,
      BitVec.toNat_ofNat, Nat.mod_eq_of_lt hn]
  | loadReg | orReg | andReg | xorReg | addReg | subReg | shiftRight | subnReg | shiftLeft =>
    rw [encode, decodeWord_of_family8 (opField_encodeXYN ..)]
    simp only [decodeFamily8, nField_encodeXYN, xField_encodeXYN, yField_encodeXYN]
  | skipKeyPressed | skipKeyNotPressed =>
    rw [encode, decodeWord_of_familyE (opField_encodeXKK ..)]
    simp only [decodeFamilyE, kkField_encodeXKK, xField_encodeXKK]
  | loadDelay | waitKey | setDelay | setSound | addIndex | fontAddress | storeBcd | storeRegisters | loadRegisters =>
    rw [encode, decodeWord_of_familyF (opField_encodeXKK ..)]
    simp only [decodeFamilyF, kkField_encodeXKK, xField_encodeXKK]

/-- Settles O1: the word decodes, and the bytes are the word's, with the rest after them. -/
theorem decodeInvertsEncode : Obligations.DecodeInvertsEncode := by
  intro i rest hwf
  refine ⟨decodeWord_encode hwf, ?_⟩
  rw [encodeBytes, decodeBytes_bytesOfWord, decodeWord_encode hwf, Except.map]

/-! ## Assembling what a word decodes to (R87, R94) -/

/-- The bits of an instruction's word that the decoder looks at: all but 3:0 of the two register skips and 7:4 of the
two shifts (R87). -/
def usedBits : Instr → Word
  | .skipEqReg _ _ | .skipNeReg _ _ => 0xFFF0#16
  | .shiftRight _ | .shiftLeft _ => 0xFF0F#16
  | _ => BitVec.allOnes 16

section
variable (w : Word)

theorem encodeXKK_fields : encodeXKK (opField w) (xField w) (kkField w) = w := opField_append_kkField w

theorem encodeXYN_fields : encodeXYN (opField w) (xField w) (yField w) (nField w) = w := nibbles_append w

/-- Without its low nibble a word is assembled with N = 0. -/
theorem encodeXYN_fields_noN : encodeXYN (opField w) (xField w) (yField w) 0 = w &&& 0xFFF0#16 := by
  conv_rhs => rw [← nibbles_append w, show 0xFFF0#16 = BitVec.allOnes 12 ++ 0#4 from rfl]
  rw [BitVec.and_append, BitVec.and_allOnes, BitVec.and_zero]; rfl

/-- Without its bits 7:4 a word is assembled with Y = 0. -/
theorem encodeXYN_fields_noY : encodeXYN (opField w) (xField w) 0 (nField w) = w &&& 0xFF0F#16 := by
  conv_rhs => rw [← nibbles_append w, show 0xFF0F#16 = BitVec.allOnes 8 ++ 0#4 ++ BitVec.allOnes 4 from rfl]
  rw [BitVec.and_append, BitVec.and_append, BitVec.and_allOnes, BitVec.and_allOnes, BitVec.and_zero]; rfl

end

/-- What a word must be for its instruction: well-formed, and assembled again from the used bits. -/
def Reassembles (w : Word) (i : Instr) : Prop := i.wellFormed = true ∧ encode i = w &&& usedBits i

section
variable {w : Word} {i : Instr}

theorem reassembles_of_eq (hwf : i.wellFormed = true) (hused : usedBits i = BitVec.allOnes 16) (h : encode i = w) :
    Reassembles w i := ⟨hwf, by rw [h, hused, BitVec.and_allOnes]⟩

theorem decodeFamily0_reassembles (h : decodeFamily0 w = .ok i) : Reassembles w i := by
  unfold decodeFamily0 at h
  split at h
  · next hw => cases h; exact reassembles_of_eq rfl rfl hw.symm
  · split at h
    · next hw => cases h; exact reassembles_of_eq rfl rfl hw.symm
    · cases h

theorem decodeFamily8_reassembles (hop : opField w = 0x8#4) (h : decodeFamily8 w = .ok i) : Reassembles w i := by
  unfold decodeFamily8 at h
  split at h
  case h_7 hn | h_9 hn =>
    cases h; exact ⟨rfl, by rw [encode, ← hop, ← hn]; exact encodeXYN_fields_noY w⟩
  case h_10 => cases h
  case h_1 hn | h_2 hn | h_3 hn | h_4 hn | h_5 hn | h_6 hn | h_8 hn =>
    cases h; exact reassembles_of_eq rfl rfl (by rw [encode, ← hop, ← hn]; exact encodeXYN_fields w)

theorem decodeFamilyE_reassembles (hop : opField w = 0xE#4) (h : decodeFamilyE w = .ok i) : Reassembles w i := by
  unfold decodeFamilyE at h
  split at h <;> cases h <;> next hkk =>
    exact reassembles_of_eq rfl rfl (by rw [encode, ← hop, ← hkk]; exact encodeXKK_fields w)

theorem decodeFamilyF_reassembles (hop : opField w = 0xF#4) (h : decodeFamilyF w = .ok i) : Reassembles w i := by
  unfold decodeFamilyF at h
  split at h <;> cases h <;> next hkk =>
    exact reassembles_of_eq rfl rfl (by rw [encode, ← hop, ← hkk]; exact encodeXKK_fields w)

/-- A word that decodes is its instruction's word, up to the ignored bits. -/
theorem decodeWord_reassembles (h : decodeWord w = .ok i) : Reassembles w i := by
  unfold decodeWord at h
  split at h
  case h_1 => exact decodeFamily0_reassembles h
  case h_9 hop => exact decodeFamily8_reassembles hop h
  case h_15 hop => exact decodeFamilyE_reassembles hop h
  case h_16 =>
    -- The default arm: the fifteen other codes are excluded.
    have hop : opField w = 0xF#4 := by simp only [imp_false] at *; bv_omega
    exact decodeFamilyF_reassembles hop h
  case h_2 hop | h_3 hop | h_11 hop | h_12 hop =>
    cases h; exact reassembles_of_eq rfl rfl (by rw [encode, ← hop]; exact opField_append_nnnField w)
  case h_4 hop | h_5 hop | h_7 hop | h_8 hop | h_13 hop =>
    cases h; exact reassembles_of_eq rfl rfl (by rw [encode, ← hop]; exact encodeXKK_fields w)
  case h_6 hop | h_10 hop =>
    cases h; exact ⟨rfl, by rw [encode, ← hop]; exact encodeXYN_fields_noN w⟩
  case h_14 hop =>
    cases h
    refine reassembles_of_eq (decide_eq_true (nField w).isLt) rfl ?_
    rw [encode, ← hop, BitVec.ofNat_toNat, BitVec.setWidth_eq]; exact encodeXYN_fields w

end

/-- Settles O2: the mask of the used bits is the one the statement gives each instruction, no mask being all ones. -/
theorem decodedWordsReassemble : Obligations.DecodedWordsReassemble := by
  intro w i h
  obtain ⟨hwf, henc⟩ := decodeWord_reassembles h
  refine ⟨hwf, ?_⟩
  cases i with
  | skipEqReg | skipNeReg | shiftRight | shiftLeft => exact henc
  | _ => exact henc.trans BitVec.and_allOnes

/-! ## The words that do not decode (R86, R90, R95) -/

/-- Settles O3: a word that selects a row decodes, one that decodes selects the row of its instruction, and no word
selects two. -/
theorem decoderAgreesWithOpcodeMap : Obligations.DecoderAgreesWithOpcodeMap := by
  refine ⟨fun w => ⟨fun ⟨i, hi⟩ => ?_, fun ⟨row, hrow, hsel⟩ => decodes_of_selects hrow hsel⟩,
    fun w a b ha hb => opcodeRow_unique ha hb⟩
  obtain ⟨row, hrow, hsel, -⟩ := decodeWord_selects hi
  exact ⟨row, hrow, hsel⟩

section
variable {w : Word}

theorem decodeFamily0_error_iff :
    decodeFamily0 w = .error (.unknownInstruction w) ↔ w ≠ 0x00E0#16 ∧ w ≠ 0x00EE#16 := by
  unfold decodeFamily0
  split
  · next hw => simp [hw]
  · next hw => split <;> simp_all

/-- The low nibbles family 0x8 leaves unused. -/
theorem not_mem_selectors8_iff (n : BitVec 4) :
    n ∉ selectors8 ↔ n ∈ [0x8#4, 0x9#4, 0xA#4, 0xB#4, 0xC#4, 0xD#4, 0xF#4] := by
  revert n; decide

theorem decodeFamily8_error_iff : decodeFamily8 w = .error (.unknownInstruction w) ↔ nField w ∉ selectors8 := by
  unfold decodeFamily8
  split <;> simp_all [selectors8]

theorem decodeFamilyE_error_iff : decodeFamilyE w = .error (.unknownInstruction w) ↔ kkField w ∉ selectorsE := by
  unfold decodeFamilyE
  split <;> simp_all [selectorsE]

theorem decodeFamilyF_error_iff : decodeFamilyF w = .error (.unknownInstruction w) ↔ kkField w ∉ selectorsF := by
  unfold decodeFamilyF
  split <;> simp_all [selectorsF]

end

/-- Every code is one of the whole families or one of the four that look further (R84). -/
theorem op_cases (op : BitVec 4) : op ∈ wholeFamilies ∨ op = 0x0#4 ∨ op = 0x8#4 ∨ op = 0xE#4 ∨ op = 0xF#4 := by
  revert op; decide

/-- Settles O4: a whole family has no unknown word, and each of the four others has the words its selectors leave. -/
theorem unknownWordsAreThoseListed : Obligations.UnknownWordsAreThoseListed := by
  intro w
  change _ ↔ (opField w = _ ∧ _) ∨ (opField w = _ ∧ nField w ∈ _) ∨ (opField w = _ ∧ kkField w ∉ selectorsE) ∨
    (opField w = _ ∧ kkField w ∉ selectorsF)
  rw [← not_mem_selectors8_iff]
  rcases op_cases (opField w) with hop | hop | hop | hop | hop
  · obtain ⟨i, hi⟩ := decodes_of_wholeFamily hop
    have hne (op : BitVec 4) (h : op ∉ wholeFamilies) : opField w ≠ op := fun heq => h (heq ▸ hop)
    simp [hi, hne 0x0#4 (by decide), hne 0x8#4 (by decide), hne 0xE#4 (by decide), hne 0xF#4 (by decide)]
  · have hd : decodeWord w = decodeFamily0 w := by unfold decodeWord; rw [hop]; rfl
    simp [hd, decodeFamily0_error_iff, hop]
  · simp [decodeWord_of_family8 hop, decodeFamily8_error_iff, hop]
  · simp [decodeWord_of_familyE hop, decodeFamilyE_error_iff, hop]
  · simp [decodeWord_of_familyF hop, decodeFamilyF_error_iff, hop]

/-- Settles O5: each word is the assembled word of its instruction. -/
theorem publishedWordsDecode : Obligations.PublishedWordsDecode := by
  refine ⟨decodeWord_encode (i := .clearScreen) rfl, decodeWord_encode (i := .call 0x20A) rfl,
    decodeWord_encode (i := .skipEqImm 1 0x00) rfl, decodeWord_encode (i := .addReg 0 1) rfl,
    decodeWord_encode (i := .subnReg 15 1) rfl, decodeWord_encode (i := .draw 0 1 15) rfl,
    decodeWord_encode (i := .skipKeyPressed 5) rfl, decodeWord_encode (i := .storeRegisters 2) rfl,
    (decodeInvertsEncode (.setIndex 0x300) [0x12#8] rfl).2⟩

end Sys2Proof
end

section
/-! PROOF. The cycle and the host's schedule (R110 to R116 of 40_cycle.md, R262 and R263 of 60_exceptions.md): what the
next step runs, how a cycle raises, that a halted machine stays as it is, and where a step stops. -/

namespace Sys2Proof

open Machine

/-! ## A check (R58, R111) -/

section
variable {o : Option ErrorValue} {s : State} {k : Result}

theorem checked_of_none (h : o = none) : checked o s k = k := by rw [h, checked]

theorem checked_of_some {e : ErrorValue} (h : o = some e) : checked o s k = .next (s.setErr (some e)) := by
  rw [h, checked, raise_eq]

end

/-! ## What a step runs -/

section
variable {s : State}

/-- With nothing scheduled and no failed load, a step is a cycle with the time for loading over. -/
theorem step_eq_cycle_of_nil (hs : s.schedule = []) (hl : s.load ≠ .failed) : step s = cycle (s.setLoad .closed) := by
  rcases hostCycle_cases s with ⟨hf, -⟩ | ⟨-, h⟩
  · exact absurd hf hl
  · exact (step_of_nil hs).trans h

/-- With a cycle scheduled and no failed load, a step is that cycle, with the time for loading over. -/
theorem step_eq_cycle_of_cons {rest : List HostOp} (hs : s.schedule = .cycle :: rest) (hl : s.load ≠ .failed) :
    step s = cycle ((s.setSchedule rest).setLoad .closed) := by
  rcases hostCycle_cases (s.setSchedule rest) with ⟨hf, -⟩ | ⟨-, h⟩
  · exact absurd hf hl
  · exact (step_of_cons hs).trans h

/-- With a load scheduled and a load possible, a step is that load. -/
theorem step_eq_load_of_cons {image : List Byte} {rest : List HostOp} (hs : s.schedule = .loadProgram image :: rest)
    (hl : s.load ≠ .closed) : step s = .next (loadProgram image (s.setSchedule rest)).1 := by
  rcases hostLoad_cases image (s.setSchedule rest) with ⟨hc, -⟩ | ⟨-, h⟩
  · exact absurd hc hl
  · exact (step_of_cons hs).trans h

/-- A healthy cycle at a fetchable `pc` whose word decodes is that instruction (R111 to R113). -/
theorem cycle_eq_exec {i : Instr} (hs : Healthy s) (hf : Fetchable s) (hd : decodeWord (fetchWord s) = .ok i) :
    cycle s = exec i s :=
  (cycle_of_fetchable hs (fetchError_eq_none.mpr hf)).trans (decodeAndRun_of_ok hd)

end

/-- Two bytes decode with nothing left over exactly when their word does. -/
theorem decodeWord_of_decodeBytes {hi lo : Byte} {rest : List Byte} {p : Instr × List Byte}
    (h : decodeBytes (hi :: lo :: rest) = .ok p) : decodeWord (wordOfBytes hi lo) = .ok p.1 := by
  rw [decodeBytes] at h
  split at h
  · next hd => cases h; exact hd
  · cases h

/-- Settles O6: what is fetched and run does not look at the schedule or at the load's record. -/
theorem stepRunsDecodedInstruction : Obligations.StepRunsDecodedInstruction := by
  intro s i hs hf hl hbytes
  have hd : decodeWord (fetchWord s) = .ok i := decodeWord_of_decodeBytes hbytes
  exact ⟨(decodeWord_reassembles hd).1, fun hnil => (step_eq_cycle_of_nil hnil hl).trans (cycle_eq_exec hs hf hd),
    fun rest hcons => (step_eq_cycle_of_cons hcons hl).trans (cycle_eq_exec hs hf hd), setLoad_of_eq⟩

/-- Settles O56: each clause is the step's own case for that head of the list. -/
theorem eachHostOperationIsOneStep : Obligations.EachHostOperationIsOneStep := fun _ _ =>
  ⟨fun _ => step_of_cons, fun _ => step_eq_load_of_cons, step_eq_cycle_of_cons, step_eq_cycle_of_nil, step_of_cons,
    fun _ => step_of_cons, fun _ => step_of_cons, step_of_cons, step_of_cons, step_of_cons⟩

/-! ## A placed word (entry 22) -/

theorem decodeWord_of_decodeTableWord {nbits w : Nat} {i : Instr} (h : decodeTableWord nbits w = some i) :
    decodeWord (tableWord nbits w) = .ok i := by
  rw [decodeTableWord, ← List.append_nil (bytesOfWord _), decodeBytes_bytesOfWord] at h
  cases hd : decodeWord (tableWord nbits w) with
  | ok j => rw [hd] at h; cases h; rfl
  | error e => rw [hd] at h; cases h

section
variable (s : State) (nbits w : Nat)

/-- The place where a word is put can be fetched from, whatever `pc` was. -/
theorem fetchPc_fetchable : (fetchPc s).toNat ≤ 0xFFE ∧ (fetchPc s).getLsbD 0 = false := by
  unfold fetchPc
  split
  · next h => exact fetchError_eq_none.mp h
  · decide

/-- The placed word is what is fetched: its two bytes end inside the space. -/
theorem fetchWord_withFetchWord : fetchWord (s.withFetchWord nbits w) = tableWord nbits w := by
  have hfit : (fetchPc s).toNat + 2 ≤ Config.memSize := by
    have := (fetchPc_fetchable s).1
    simp only [Config.memSize]; omega
  have hmem : (s.withFetchWord nbits w).mem =
      writeBytes s.mem (fetchPc s).toNat (bytesOfWord (tableWord nbits w)) := rfl
  exact (fetchWord_of_mem_eq_writeBytes hmem hfit).trans (wordOfBytes_bytes _)

end

/-- Settles O8: the placed state is healthy, has nothing scheduled and its load closed, and fetches the placed word. -/
theorem placedWordRunsNext : Obligations.PlacedWordRunsNext := by
  intro s w i h
  have hd : decodeWord (fetchWord (s.withFetchWord 16 w)) = .ok i := by
    rw [fetchWord_withFetchWord]; exact decodeWord_of_decodeTableWord h
  have hl : (s.withFetchWord 16 w).load = .closed := rfl
  rw [step_eq_cycle_of_nil rfl (by rw [hl]; decide), setLoad_of_eq hl]
  exact cycle_eq_exec rfl (fetchPc_fetchable s) hd

/-! ## A cycle that raises (R111, R247) -/

section
variable {pc : Word}

theorem fetchError_of_gt (h : 0xFFE < pc.toNat) : fetchError pc = some (.memOutOfRange pc.toNat) := if_pos h

theorem fetchError_of_odd (hle : pc.toNat ≤ 0xFFE) (hodd : pc.getLsbD 0 = true) :
    fetchError pc = some (.pcMisaligned pc) := by
  rw [fetchError, if_neg (Nat.not_lt.mpr hle), if_pos hodd]

end

/-- A fetch check that fails ends the cycle with its error. -/
theorem cycle_of_fetchError {s : State} {e : ErrorValue} (hs : Healthy s) (he : fetchError s.pc = some e) :
    cycle s = .next (s.setErr (some e)) := (cycle_of_healthy hs).trans (checked_of_some he)

/-- Settles O9: the range is checked before the alignment, and either check ends the cycle. -/
theorem fetchChecksRangeThenAlignment : Obligations.FetchChecksRangeThenAlignment := fun _ hs =>
  ⟨fun hgt => cycle_of_fetchError hs (fetchError_of_gt hgt),
    fun hle hodd => cycle_of_fetchError hs (fetchError_of_odd hle hodd)⟩

/-- Settles O11: a cycle completes with the latch left alone, or sets the latch and nothing else. -/
theorem raisingCycleChangesOnlyErr : Obligations.RaisingCycleChangesOnlyErr := by
  intro s t e hs h ht
  obtain ⟨target, ⟨herr, -⟩ | ⟨e', rfl⟩⟩ := cycle_endsAt hs h
  · rw [herr, show s.err = none from hs] at ht; cases ht
  · rw [setErr_err] at ht; rw [ht]

/-! ## No instruction stops (R240, entry 1) -/

/-- The outcome is a next state. -/
def Answers (r : Result) : Prop := ∃ t, r = .next t

theorem answers_next (t : State) : Answers (.next t) := ⟨t, rfl⟩

theorem answers_checked {e : Option ErrorValue} {s : State} {k : Result} (h : Answers k) : Answers (checked e s k) := by
  cases e with
  | none => exact h
  | some e => exact answers_next _

section
variable (s : State)

theorem execReturn_answers : Answers (execReturn s) := by
  unfold execReturn
  split <;> exact answers_next _

theorem execCall_answers (addr : BitVec 12) : Answers (execCall addr s) := by
  unfold execCall
  split <;> exact answers_next _

theorem execWaitKey_answers (x : RegIdx) : Answers (execWaitKey x s) := by
  unfold execWaitKey
  split <;> exact answers_next _

theorem exec_answers (i : Instr) : Answers (exec i s) := by
  cases i with
  | ret => exact execReturn_answers s
  | call addr => exact execCall_answers s addr
  | waitKey x => exact execWaitKey_answers s x
  | skipKeyPressed | skipKeyNotPressed | draw | storeBcd | storeRegisters | loadRegisters =>
    exact answers_checked (answers_next _)
  | _ => exact answers_next _

theorem cycle_answers : Answers (cycle s) := by
  cases herr : s.err with
  | some e => rw [cycle_of_halted herr]; exact answers_next s
  | none =>
    rw [cycle_of_healthy herr]
    refine answers_checked ?_
    cases hd : decodeWord (fetchWord s) with
    | ok i => rw [decodeAndRun_of_ok hd]; exact exec_answers s i
    | error e => rw [decodeAndRun_of_error hd]; exact answers_next _

end

/-- Settles O12: an instruction ends in `advance`, a skip, a jump or `raise`, each a next state, and so does a cycle. -/
theorem everyInstructionAnswersNext : Obligations.EveryInstructionAnswersNext :=
  ⟨fun i s => exec_answers s i, cycle_answers⟩

/-! ## Where a step stops (R245, R263) -/

section
variable {s : State}

theorem step_of_failed (hl : s.load = .failed) (hs : s.schedule = [] ∨ ∃ rest, s.schedule = .cycle :: rest) :
    step s = .refused .cycleAfterFailedLoad := by
  rcases hs with hs | ⟨rest, hs⟩
  · rw [step_of_nil hs, hostCycle, hl]
  · rw [step_of_cons hs, hostStep, hostCycle, setSchedule_load, hl]

theorem step_of_closed_load {image : List Byte} {rest : List HostOp} (hl : s.load = .closed)
    (hs : s.schedule = .loadProgram image :: rest) : step s = .refused .loadWithoutReset := by
  rw [step_of_cons hs, hostStep, hostLoad, setSchedule_load, hl]

/-- A step that breaks neither rule of the order goes on. -/
theorem step_answers (hcycle : ¬(s.load = .failed ∧ (s.schedule = [] ∨ ∃ rest, s.schedule = .cycle :: rest)))
    (hload : ¬(s.load = .closed ∧ ∃ image rest, s.schedule = .loadProgram image :: rest)) : Answers (step s) := by
  cases hs : s.schedule with
  | nil =>
    have hl : s.load ≠ .failed := fun hl => hcycle ⟨hl, .inl hs⟩
    rw [step_eq_cycle_of_nil hs hl]; exact cycle_answers _
  | cons op rest =>
    cases op with
    | cycle =>
      have hl : s.load ≠ .failed := fun hl => hcycle ⟨hl, .inr ⟨rest, hs⟩⟩
      rw [step_eq_cycle_of_cons hs hl]; exact cycle_answers _
    | loadProgram image =>
      have hl : s.load ≠ .closed := fun hl => hload ⟨hl, image, rest, hs⟩
      rw [step_eq_load_of_cons hs hl]; exact answers_next _
    | _ => rw [step_of_cons hs]; exact answers_next _

end

/-- Settles O57: the two refusals, and the answer in every other case. -/
theorem stepStopsOnlyOutOfOrder : Obligations.StepStopsOnlyOutOfOrder := fun _ =>
  ⟨fun ⟨hl, hs⟩ => step_of_failed hl hs, fun ⟨hl, _, _, hs⟩ => step_of_closed_load hl hs, step_answers⟩

/-! ## A halted machine (R116, R247) -/

/-- The operation is neither a reset nor a load. -/
def LeavesHalted (op : HostOp) : Prop := (∀ font, op ≠ .reset font) ∧ ∀ image, op ≠ .loadProgram image

section
variable {s : State} {e : ErrorValue}

theorem consumeRedraw_of_halted (h : s.err = some e) : consumeRedraw s = (s, false) := by simp [consumeRedraw, h]

theorem consumeSoundEnded_of_halted (h : s.err = some e) : consumeSoundEnded s = (s, false) := by
  simp [consumeSoundEnded, h]

/-- In a halted machine whose load is closed an operation other than reset and load changes nothing. -/
theorem hostStep_of_halted (h : s.err = some e) (hl : s.load = .closed) {op : HostOp}
    (hop : LeavesHalted op) : hostStep op s = .next s := by
  have hs : ¬Healthy s := by simp [Healthy, h]
  obtain ⟨hreset, hload⟩ := hop
  cases op with
  | reset font => exact absurd rfl (hreset font)
  | loadProgram image => exact absurd rfl (hload image)
  | cycle => rw [hostStep, hostCycle, hl]; exact (congrArg cycle (setLoad_of_eq hl)).trans (cycle_of_halted h)
  | tick => rw [hostStep, tick_of_halted hs]
  | press k => rw [hostStep, press_of_halted k hs]
  | release k => rw [hostStep, release_of_halted k hs]
  | readDisplay => rfl
  | consumeRedraw => rw [hostStep, consumeRedraw_of_halted h]
  | consumeSoundEnded => rw [hostStep, consumeSoundEnded_of_halted h]

/-- A step of such a machine takes the scheduled operation off the list and changes nothing else. -/
theorem step_of_halted (h : s.err = some e) (hl : s.load = .closed)
    (hops : ∀ op ∈ s.schedule, LeavesHalted op) : step s = .next (s.setSchedule s.schedule.tail) := by
  cases hs : s.schedule with
  | nil =>
    rw [step_eq_cycle_of_nil hs (by rw [hl]; decide), setLoad_of_eq hl, cycle_of_halted h, List.tail_nil, ← hs]; rfl
  | cons op rest =>
    rw [step_of_cons hs]
    exact hostStep_of_halted (s := s.setSchedule rest) h hl (hops op (by simp [hs]))

end

theorem run_of_halted (k : Nat) : ∀ {s : State} {e : ErrorValue}, s.err = some e → s.load = .closed →
    (∀ op ∈ s.schedule, LeavesHalted op) → core.run k s = .next (s.setSchedule (s.schedule.drop k)) := by
  induction k with
  | zero => intros; rfl
  | succ k ih =>
    intro s e h hl hops
    have htail : ∀ op ∈ s.schedule.tail, LeavesHalted op := fun op hop => hops op (List.mem_of_mem_tail hop)
    have hrest := ih (s := s.setSchedule s.schedule.tail) h hl htail
    rw [setSchedule_schedule, List.drop_tail] at hrest
    exact (run_succ k core s _ (step_of_halted h hl hops)).trans hrest

/-- Settles O10: each step only shortens the host's list, so `k` steps drop its first `k` entries. -/
theorem haltedMachineStaysFrozen : Obligations.HaltedMachineStaysFrozen := fun k _ _ h hl hops =>
  ⟨⟨consumeRedraw_of_halted h, consumeSoundEnded_of_halted h⟩, run_of_halted k h hl hops⟩

end Sys2Proof
end

section
/-! PROOF. The call stack (R130, R132, R138 of 41_control_flow.md): what a call and a return change, and the two in a
row. -/

namespace Sys2Proof

open Machine

/-! ## A call and a return -/

section
variable {s : State} {k : Fin 16}

/-- A call with a free frame: the slot at `sp` takes the address of the next instruction (R132). -/
theorem exec_call_of_free (addr : BitVec 12) (hk : s.sp.val = k.val) :
    ∃ t, exec (.call addr) s = .next t ∧ t.pc = addrOperand addr ∧ t.stack[k.val] = s.pc + 2 ∧
      t.sp.val = k.val + 1 ∧ FrameBut [.pc, .sp, .slot k] s t := by
  have hlt : s.sp.val < 16 := hk ▸ k.isLt
  refine ⟨_, by rw [exec, execCall, push_of_lt hlt]; exact goTo_eq _ _, rfl, ?_, congrArg (· + 1) hk, fun p hp => ?_⟩
  · simp [hk]
  · cases p with
    | pc | sp => simp at hp
    | slot j =>
      have hj : s.sp.val ≠ j.val := fun h => hp (by simp [Fin.ext (hk.symm.trans h)])
      exact Vector.getElem_set_ne hlt j.isLt hj
    | _ => rfl

theorem exec_call_of_full (addr : BitVec 12) (h : s.sp.val = 16) :
    exec (.call addr) s = .next (s.setErr (some (.stackOverflow s.pc))) := by
  rw [exec, execCall, push_of_full h]; exact raise_eq _ s

/-- A return with a frame in use: the slot below `sp` gives `pc` and keeps its bits (R130). -/
theorem exec_ret_of_used (hk : s.sp.val = k.val + 1) :
    ∃ t, exec .ret s = .next t ∧ t.pc = s.stack[k.val] ∧ t.sp.val = k.val ∧ FrameBut [.pc, .sp] s t := by
  have hpred : s.sp.val - 1 = k.val := by omega
  refine ⟨_, by rw [exec, execReturn, pop_of_pos (by omega)]; exact goTo_eq _ _, by simp [hpred], hpred, fun p hp => ?_⟩
  cases p with
  | pc | sp => simp at hp
  | _ => rfl

theorem exec_ret_of_empty (h : s.sp.val = 0) : exec .ret s = .next (s.setErr (some (.stackUnderflow s.pc))) := by
  rw [exec, execReturn, pop_of_empty h]; exact raise_eq _ s

end

/-! ## The obligations -/

/-- Settles O18: a free frame is pushed, a full stack raises. -/
theorem callPushesReturnAddress : Obligations.CallPushesReturnAddress := by
  refine fun addr s => ⟨fun k hk => ?_, exec_call_of_full addr⟩
  obtain ⟨t, ht, hpc, hrest⟩ := exec_call_of_free addr hk
  exact ⟨t, ht, by rw [hpc, toNat_addrOperand], hrest⟩

/-- Settles O19: a frame in use is popped, an empty stack raises. -/
theorem returnPopsTopFrame : Obligations.ReturnPopsTopFrame := fun _ =>
  ⟨fun _ hk => exec_ret_of_used hk, exec_ret_of_empty⟩

/-- Settles O20: the return finds the slot the call filled, and puts `sp` back. -/
theorem callThenReturnComesBack : Obligations.CallThenReturnComesBack := by
  intro addr s k hk
  obtain ⟨t, ht, -, hslot, hsp, hcall⟩ := exec_call_of_free addr hk
  obtain ⟨u, hu, hpc, hsp', hret⟩ := exec_ret_of_used hsp
  refine ⟨t, u, ht, hu, hpc.trans hslot, fun p hp => ?_⟩
  by_cases hps : p = .sp
  · subst hps; exact Fin.ext (hsp'.trans hk.symm)
  · exact hcall.trans hret p (by simp_all)

end Sys2Proof
end

section
/-! PROOF. Register arithmetic and logic (R154 to R157, R159 to R163 of 42_alu.md): copies, bitwise operations,
differences, shifts and the random byte. -/

namespace Sys2Proof

open Machine

/-- Settles O24: each writes one register, and a bitwise operation acts on every bit alike. -/
theorem copyAndBitwiseLeaveFlag : Obligations.CopyAndBitwiseLeaveFlag := by
  intro x y s
  obtain ⟨t, ht, hor, hpc, hframe⟩ := advance_setReg s x (s.reg x ||| s.reg y)
  obtain ⟨u, hu, hand, hpc', hframe'⟩ := advance_setReg s x (s.reg x &&& s.reg y)
  obtain ⟨v, hv, hxor, hpc'', hframe''⟩ := advance_setReg s x (s.reg x ^^^ s.reg y)
  exact ⟨advance_setReg s x (s.reg y),
    ⟨t, ht, hpc, hframe, fun b _ => by rw [hor, BitVec.getLsbD_or]⟩,
    ⟨u, hu, hpc', hframe', fun b _ => by rw [hand, BitVec.getLsbD_and]⟩,
    v, hv, hpc'', hframe'', fun b _ => by rw [hxor, BitVec.getLsbD_xor]⟩

/-- A difference modulo 256 with its not-borrow, whichever operand is the minuend (R159, R161). -/
theorem advance_difference (s : State) (x : RegIdx) (a b : Byte) :
    ∃ t, advance (s.setResultFlag x (a - b) (notBorrow a b)) = .next t ∧
      (x ≠ VF → (t.reg x).toNat = (256 + a.toNat - b.toNat) % 256) ∧
      (a.toNat ≥ b.toNat → t.reg VF = 0x01) ∧ (a.toNat < b.toNat → t.reg VF = 0x00) ∧
      t.pc = s.pc + 2 ∧ FrameBut [.pc, .reg x, .reg VF] s t := by
  obtain ⟨t, ht, hreg, hflag, hpc, hframe⟩ := advance_setResultFlag s x (a - b) (notBorrow a b)
  refine ⟨t, ht, fun hx => ?_, fun h => ?_, fun h => ?_, hpc, hframe⟩
  · rw [hreg hx, BitVec.toNat_sub]; omega
  · rw [hflag, notBorrow, decide_eq_true h]; rfl
  · rw [hflag, notBorrow, decide_eq_false (Nat.not_le.mpr h)]; rfl

/-- Settles O26: the two are one difference with the operands exchanged. -/
theorem subtractionsAndNotBorrow : Obligations.SubtractionsAndNotBorrow := fun x y s =>
  ⟨advance_difference s x (s.reg x) (s.reg y), advance_difference s x (s.reg y) (s.reg x)⟩

/-- The bits 7:4 of the word are not looked at (R87). -/
theorem decodeWord_shiftRight (x y : RegIdx) : decodeWord (encodeXYN 0x8#4 x y 0x6#4) = .ok (.shiftRight x) := by
  rw [decodeWord_of_family8 (opField_encodeXYN ..)]
  simp only [decodeFamily8, nField_encodeXYN, xField_encodeXYN]

/-- The bits 7:4 of the word are not looked at (R87). -/
theorem decodeWord_shiftLeft (x y : RegIdx) : decodeWord (encodeXYN 0x8#4 x y 0xE#4) = .ok (.shiftLeft x) := by
  rw [decodeWord_of_family8 (opField_encodeXYN ..)]
  simp only [decodeFamily8, nField_encodeXYN, xField_encodeXYN]

/-- A bit written as a flag is that binary digit of the byte. -/
theorem toNat_flagByte_getLsbD (a : Byte) (b : Nat) : (flagByte (a.getLsbD b)).toNat = a.toNat / 2 ^ b % 2 := by
  rw [BitVec.getLsbD, Nat.testBit_eq_decide_div_mod_eq, flagByte]
  rcases Nat.mod_two_eq_zero_or_one (a.toNat / 2 ^ b) with h | h <;> simp [h]

/-- Settles O27: the result halves or doubles the old value, and the flag is its lowest or highest binary digit. -/
theorem shiftsKeepLostBit : Obligations.ShiftsKeepLostBit := by
  intro x y s
  obtain ⟨t, ht, hreg, hflag, hrest⟩ := advance_setResultFlag s x (s.reg x >>> 1) (lostLow (s.reg x))
  obtain ⟨u, hu, hreg', hflag', hrest'⟩ := advance_setResultFlag s x (s.reg x <<< 1) (lostHigh (s.reg x))
  have hlt := (s.reg x).isLt
  refine ⟨decodeWord_shiftRight x y, decodeWord_shiftLeft x y, ⟨t, ht, fun hx => ?_, ?_, hrest⟩,
    u, hu, fun hx => ?_, ?_, hrest'⟩
  · rw [hreg hx, BitVec.toNat_ushiftRight, Nat.shiftRight_eq_div_pow, pow_one]
  · rw [hflag, lostLow, toNat_flagByte_getLsbD, pow_zero, Nat.div_one]
  · rw [hreg' hx, BitVec.toNat_shiftLeft, Nat.shiftLeft_eq, pow_one, Nat.mul_comm]
  · rw [hflag', lostHigh, toNat_flagByte_getLsbD]; omega

theorem frameBut_setReg (s : State) (x : RegIdx) (v : Byte) : FrameBut [.reg x] s (s.setReg x v) := by
  intro p hp
  cases p with
  | reg r =>
    have hr : r ≠ x := by simpa using hp
    exact (setReg_reg s x r v).trans (if_neg hr)
  | _ => rfl

theorem frameBut_setDraws (s : State) (n : Nat) : FrameBut [.draws] s (s.setDraws n) := by
  intro p hp
  cases p with
  | draws => exact absurd (List.mem_singleton_self _) hp
  | _ => rfl

/-- Settles O28: the byte drawn is masked, whatever it is, and the next draw has a later number. -/
theorem randomMasksFreeByte : Obligations.RandomMasksFreeByte := by
  intro x kk s
  have hreg : ((s.setReg x (Config.rnd s.draws &&& kk)).reg x) = Config.rnd s.draws &&& kk := by simp
  refine ⟨_, advance_eq _, hreg, fun hkk => ?_, Nat.lt_succ_self _, rfl, ?_⟩
  · exact hreg.trans (by rw [hkk]; exact BitVec.and_zero)
  · exact (((frameBut_setReg s x _).trans (frameBut_setDraws _ _)).trans (frameBut_setPc _ _)).mono fun p hp => by
      simpa [or_comm, or_left_comm] using hp

end Sys2Proof
end

section
/-! PROOF. The index register and memory (R182, R183, R187 of 43_index_memory.md, R64 of 20_memory.md): index
arithmetic, a load after a store, and a fetch after a store. -/

namespace Sys2Proof

open Machine

/-- Settles O30: the sum wraps at 65536, and 5 times a byte does not. -/
theorem indexArithmetic : Obligations.IndexArithmetic := by
  intro x s
  obtain ⟨t, ht, hI, hrest⟩ := advance_setI s (s.I + regOperand16 s x)
  obtain ⟨u, hu, hI', hrest'⟩ := advance_setI s (BitVec.ofNat 16 Config.glyphSize * regOperand16 s x)
  have hlt := (s.reg x).isLt
  refine ⟨⟨t, ht, ?_, hrest⟩, u, hu, ?_, hrest'⟩
  · rw [hI, BitVec.toNat_add, toNat_regOperand16]
  · rw [hI', BitVec.toNat_mul, toNat_regOperand16, BitVec.toNat_ofNat]; simp only [Config.glyphSize]; omega

/-- Settles O34: with `I` set back the load reads the bytes the store wrote. -/
theorem storeThenLoadRestores : Obligations.StoreThenLoadRestores := by
  intro x s r hle
  obtain ⟨t, ht, -, hI, hstored, -⟩ := (storeRegistersCopiesOut x s).2.1 hle
  obtain ⟨u, hu, -, hI', hloaded, -⟩ := (loadRegistersCopiesIn x ((t.setRegs r).setI s.I)).2.1 hle
  exact ⟨t, u, ht, hu, fun i hi => (hloaded i hi).trans (hstored i hi), BitVec.eq_of_toNat_eq (hI'.trans hI.symm), hI'⟩

/-- Settles O35: the next fetch is at the old `I`, where `x[0]` and `x[1]` were stored. -/
theorem storeSeenByNextFetch : Obligations.StoreSeenByNextFetch := by
  intro x s hx hI hle
  obtain ⟨t, ht, hpc, -, hstored, -⟩ := (storeRegistersCopiesOut x s).2.1 hle
  have hpcI : t.pc = s.I := hpc.trans hI.symm
  have first : readByte t.mem s.I.toNat = s.reg 0 := hstored 0 (Fin.zero_le x)
  have second : readByte t.mem (s.I.toNat + 1) = s.reg 1 := hstored 1 hx
  exact ⟨t, ht, hpcI, by rw [fetchWord, hpcI, first, second, wordOfBytes]⟩

end Sys2Proof
end

section
/-! PROOF. The keys and the sound timer (R220, R221, R223, R225, R226 of 45_keys_timers.md): the key a skip tests, the
key `wait-key` takes, and what setting the sound timer leaves alone. -/

namespace Sys2Proof

open Machine

/-- The flag a key skip tests is that of the key the register's value names (R220). -/
theorem keyDown_of_toNat_eq {s : State} {v : Byte} {k : KeyIdx} (h : v.toNat = k.val) :
    keyDown s v = s.key[k.val] := by
  have hlt : v.toNat < 16 := h ▸ k.isLt
  simp only [keyDown_eq s v hlt, h]

/-- Settles O40: in range each is a skip on the named key's flag, above 15 each raises. -/
theorem keySkipsTestNamedKey : Obligations.KeySkipsTestNamedKey := by
  refine fun x s => ⟨fun k hk => ?_,
    fun hgt => ⟨checked_of_some (keyError_of_gt hgt), checked_of_some (keyError_of_gt hgt)⟩⟩
  have hok : keyError (s.reg x) = none := keyError_eq_none.mpr (hk ▸ Nat.le_of_lt_succ k.isLt)
  obtain ⟨t, ht, hframe, hdown, hup⟩ := skipIf_moves (c := s.key[k.val]) Iff.rfl s
  obtain ⟨u, hu, hframe', hup', hdown'⟩ := skipIf_moves (c := !s.key[k.val]) (iff_of_eq (Bool.not_eq_true' _)) s
  rw [← keyDown_of_toNat_eq hk] at ht hu
  exact ⟨⟨t, (checked_of_none hok).trans ht, hframe, hdown, fun h => hup (by simp [h])⟩,
    u, (checked_of_none hok).trans hu, hframe', hup', fun h => hdown' (by simp [h])⟩

/-- The key `wait-key` takes is the one that is down with no lower one down (R223). -/
theorem lowestKey_of_lowest {s : State} {k : KeyIdx} (hdown : s.key[k.val] = true)
    (hlow : ∀ j : KeyIdx, j < k → s.key[j.val] = false) : lowestKey s = some k.val := by
  cases h : lowestKey s with
  | none => exact absurd (lowestKey_eq_none.mp h k) (by simp [hdown])
  | some m =>
    obtain ⟨hm, hmdown, hmlow⟩ := lowestKey_eq_some h
    rcases lt_trichotomy m k.val with hlt | heq | hgt
    · exact absurd (hlow ⟨m, hm⟩ hlt) (by simp [hmdown])
    · rw [heq]
    · exact absurd (hmlow k hgt) (by simp [hdown])

/-- Settles O41: the lowest key's number fits the register, and with no key down the state is answered as it is. -/
theorem waitKeyTakesLowestOrStalls : Obligations.WaitKeyTakesLowestOrStalls := by
  refine fun x s => ⟨fun k hdown hlow => ?_, fun hup => ?_⟩
  · obtain ⟨t, ht, hreg, hrest⟩ := advance_setReg s x (BitVec.ofNat 8 k.val)
    have hexec : exec (.waitKey x) s = advance (s.setReg x (BitVec.ofNat 8 k.val)) := by
      rw [exec, execWaitKey, lowestKey_of_lowest hdown hlow]
    have hk := k.isLt
    exact ⟨t, hexec.trans ht, by rw [hreg, BitVec.toNat_ofNat]; omega, hrest⟩
  · rw [exec, execWaitKey, lowestKey_eq_none.mpr hup]

/-- Settles O43: `ST` and `pc` are the two updates, and `snd_ended` is in their frame. -/
theorem setSoundRaisesNoEvent : Obligations.SetSoundRaisesNoEvent := fun x s =>
  ⟨_, advance_eq _, rfl, rfl, rfl,
    ((frameBut_setST s (s.reg x)).trans (frameBut_setPc _ _)).mono fun _ hp => by simpa [or_comm] using hp⟩

end Sys2Proof
end

section
/-! PROOF. The rule of `draw` (R202, R203 of 44_display.md): the cells a sprite covers, what one draw changes, and what
two draws in a row change. -/

namespace Sys2Proof

open Machine

/-! ## The cells a sprite covers -/

theorem getElem_readBytes (m : Memory) (a n : Nat) {j : Nat} (hj : j < (readBytes m a n).length) :
    (readBytes m a n)[j] = readByte m (a + j) := by
  simp [readBytes]

/-- The loops cover the cells that the statement says a sprite covers. -/
theorem rowsCover_readBytes_iff {s : State} {cx cy n : Nat} {r : Fin 32} {c : Fin 64} :
    rowsCover cx cy (readBytes s.mem s.I.toNat n) r c ↔ spriteCovers s cx cy n r c := by
  constructor
  · rintro ⟨j, hj, hr, k, hk, hc, hbit⟩
    rw [getElem_readBytes] at hbit
    rw [readBytes_length] at hj
    exact ⟨j, k, hj, hk, congrArg Fin.val hr, congrArg Fin.val hc, hbit⟩
  · rintro ⟨j, k, hj, hk, hr, hc, hbit⟩
    refine ⟨j, by rwa [readBytes_length], Fin.ext hr, k, hk, Fin.ext hc, ?_⟩
    rw [getElem_readBytes]; exact hbit

/-- Which cells a sprite covers depends on `I` and on the bytes of memory alone. -/
theorem spriteCovers_congr {s t : State} (hI : t.I = s.I) (hmem : ∀ a, readByte t.mem a = readByte s.mem a)
    {cx cy n : Nat} {r : Fin 32} {c : Fin 64} : spriteCovers t cx cy n r c ↔ spriteCovers s cx cy n r c := by
  simp only [spriteCovers, hI, hmem]

/-! ## One draw -/

section
variable {s : State} {x y : RegIdx} {n : Nat}

theorem exec_draw_of_fits (h : n = 0 ∨ s.I.toNat + n ≤ Config.memSize) :
    exec (.draw x y n) s = .next ((drawn x y n s).setPc (s.pc + 2)) := by
  rw [exec, execDraw, rangeError_eq_none.mpr h]; exact advance_eq _

section
variable {r : Fin 32} {c : Fin 64} (hn : n < 16)
include hn

theorem readBytes_length_le_32 (m : Memory) (a : Nat) : (readBytes m a n).length ≤ 32 := by
  rw [readBytes_length]; omega

theorem cellAt_drawn_of_covers (h : spriteCovers s (s.reg x).toNat (s.reg y).toNat n r c) :
    cellAt (drawn x y n s).disp r c = !cellAt s.disp r c :=
  (drawRows_cells _ _ _ _ (readBytes_length_le_32 hn _ _)).1 r c (rowsCover_readBytes_iff.mpr h)

theorem cellAt_drawn_of_not_covers (h : ¬spriteCovers s (s.reg x).toNat (s.reg y).toNat n r c) :
    cellAt (drawn x y n s).disp r c = cellAt s.disp r c :=
  (drawRows_cells _ _ _ _ (readBytes_length_le_32 hn _ _)).2.1 r c (mt rowsCover_readBytes_iff.mp h)

/-- VF after a draw is the collision (R202). -/
theorem drawn_reg_VF : ∃ hit : Bool, (drawn x y n s).reg VF = flagByte hit ∧
    (hit = true ↔ spriteHits s (s.reg x).toNat (s.reg y).toNat n) := by
  have hcells := drawRows_cells (s.reg x).toNat _ (s.reg y).toNat (s.disp, false)
    (readBytes_length_le_32 hn s.mem s.I.toNat)
  refine ⟨_, (setReg_reg (s.setDisp _) VF VF _).trans (if_pos rfl), hcells.2.2.trans ?_⟩
  simp only [Bool.false_eq_true, false_or, rowsCover_readBytes_iff, spriteHits]

end

theorem frame_drawn : Frame (fun p => p = .redraw ∨ p = .reg VF ∨ ∃ r c, p = .cell r c) s (drawn x y n s) := by
  refine (((frame_setDisp s _).trans (frameBut_setReg _ VF _)).trans (frameBut_setRedraw _ true)).mono ?_
  rintro p ((hcell | hp) | hp)
  · exact .inr (.inr hcell)
  · exact .inr (.inl (List.mem_singleton.mp hp))
  · exact .inl (List.mem_singleton.mp hp)

end

/-- Settles O37: the loops toggle the covered cells and report a collision, and the rest is in the frame. -/
theorem drawTogglesCoveredCells : Obligations.DrawTogglesCoveredCells := by
  intro x y n s hn hfit
  obtain ⟨hit, hflag, hhit⟩ := drawn_reg_VF (s := s) (x := x) (y := y) hn
  refine ⟨_, exec_draw_of_fits hfit, fun r c => cellAt_drawn_of_covers hn, fun r c => cellAt_drawn_of_not_covers hn,
    fun h => ?_, fun h => ?_, rfl, rfl, ?_⟩
  · exact hflag.trans (by rw [hhit.mpr h]; rfl)
  · exact hflag.trans (by rw [Bool.eq_false_iff.mpr (mt hhit.mp h)]; rfl)
  · refine (frame_drawn.trans (frameBut_setPc _ _)).mono ?_
    rintro p (hp | hp)
    · exact .inr hp
    · exact .inl (List.mem_singleton.mp hp)

/-- Settles O38: a sprite out of range fails the check, and no row at all leaves the display and no collision. -/
theorem drawChecksSpriteRange : Obligations.DrawChecksSpriteRange := by
  refine fun x y n s => ⟨fun hn _ hgt => checked_rangeError_of_gt _ (Nat.ne_of_gt hn) hgt, ?_⟩
  have hflag : (drawn x y 0 s).reg VF = 0x00 := (setReg_reg _ VF VF _).trans (if_pos rfl)
  exact ⟨_, exec_draw_of_fits (.inl rfl), rfl, hflag, rfl, rfl⟩

/-! ## Two draws -/

/-- Settles O39: the second draw covers the same cells, each toggled once before it. -/
theorem doubleDrawRestores : Obligations.DoubleDrawRestores := by
  intro x y n s hn hfit
  obtain ⟨t, ht, hcov, hnot, -, -, -, -, hframe⟩ := drawTogglesCoveredCells x y n s hn hfit
  have hI : t.I = s.I := hframe .index (by simp)
  have hreg (i : RegIdx) : (t.setReg VF (s.reg VF)).reg i = s.reg i := by
    rw [setReg_reg]
    split
    · next h => rw [h]
    · next h => exact hframe (.reg i) (by simpa using h)
  obtain ⟨u, hu, hcov', hnot', hhit, hmiss, -⟩ :=
    drawTogglesCoveredCells x y n (t.setReg VF (s.reg VF)) hn (hfit.imp_right fun h => by rwa [setReg_I, hI])
  have same {r : Fin 32} {c : Fin 64} : spriteCovers (t.setReg VF (s.reg VF)) (s.reg x).toNat (s.reg y).toNat n r c ↔
      spriteCovers s (s.reg x).toNat (s.reg y).toNat n r c :=
    spriteCovers_congr hI fun a => hframe (.byte a) (by simp)
  simp only [hreg, spriteHits, same, setReg_disp] at hcov' hnot' hhit hmiss
  -- Where the first draw toggled a cell, it is lit now exactly if it was dark.
  have lit {r c} (h : spriteCovers s (s.reg x).toNat (s.reg y).toNat n r c) :
      cellAt t.disp r c = true ↔ cellAt s.disp r c = false := by rw [hcov r c h, Bool.not_eq_true']
  refine ⟨t, u, ht, hu, fun r c => ?_, fun h => ?_, fun ⟨r, c, hc, hdark⟩ => hhit ⟨r, c, hc, (lit hc).mpr hdark⟩⟩
  · by_cases hc : spriteCovers s (s.reg x).toNat (s.reg y).toNat n r c
    · rw [hcov' r c hc, hcov r c hc, Bool.not_not]
    · rw [hnot' r c hc, hnot r c hc]
  · by_contra hno
    have hzero := hmiss fun ⟨r, c, hc, hlit⟩ => hno ⟨r, c, hc, (lit hc).mp hlit⟩
    rw [h] at hzero
    exact absurd hzero (by decide)

end Sys2Proof
end

section
/-! PROOF. What the host is told (R256, R259 to R261 of 60_exceptions.md): ticks in a row, the consume operations, and
the display read. -/

namespace Sys2Proof

open Machine

/-! ## Ticks in a row (R256) -/

section
variable {s : State}

theorem tick_healthy (hs : Healthy s) : Healthy (tick s) := (tick_frame s .err (by simp)).trans hs

/-- `k` ticks, each one down to 0, with the event at the tick that takes `ST` there. -/
theorem ticks_of_healthy (k : Nat) (hs : Healthy s) : Healthy (tick^[k] s) ∧
    (tick^[k] s).DT.toNat = s.DT.toNat - k ∧ (tick^[k] s).ST.toNat = s.ST.toNat - k ∧
    ((tick^[k] s).sndEnded = true ↔ s.sndEnded = true ∨ (1 ≤ s.ST.toNat ∧ s.ST.toNat ≤ k)) := by
  induction k with
  | zero => exact ⟨hs, rfl, rfl, (or_iff_left (by omega)).symm⟩
  | succ k ih =>
    obtain ⟨hk, hdt, hst, hended⟩ := ih
    rw [Function.iterate_succ_apply']
    refine ⟨tick_healthy hk, ?_, ?_, ?_⟩
    · rw [toNat_tick_DT hk, hdt, Nat.sub_sub]
    · rw [toNat_tick_ST hk, hst, Nat.sub_sub]
    · rw [tick_sndEnded hk, hended, hst, or_assoc]
      have last : (1 ≤ s.ST.toNat ∧ s.ST.toNat ≤ k) ∨ s.ST.toNat - k = 1 ↔ 1 ≤ s.ST.toNat ∧ s.ST.toNat ≤ k + 1 := by
        omega
      rw [last]

end

/-- Settles O45: by induction on the number of ticks. -/
theorem timerReachesZeroAfterItsValue : Obligations.TimerReachesZeroAfterItsValue := fun k _ hs =>
  (ticks_of_healthy k hs).2

/-! ## The consume operations and the display read -/

section
variable {s : State}

theorem consumeRedraw_of_healthy (hs : Healthy s) : consumeRedraw s = (s.setRedraw false, s.redraw) := if_pos hs

theorem consumeSoundEnded_of_healthy (hs : Healthy s) :
    consumeSoundEnded s = (s.setSndEnded false, s.sndEnded) := if_pos hs

end

/-- Settles O47: the first consume leaves a healthy state with the flag clear, which the second one answers. -/
theorem consumeReadsAndClears : Obligations.ConsumeReadsAndClears := by
  intro s hs
  have hredraw := consumeRedraw_frame s
  have hsound := consumeSoundEnded_frame s
  rw [consumeRedraw_of_healthy hs] at hredraw ⊢
  rw [consumeSoundEnded_of_healthy hs] at hsound ⊢
  refine ⟨rfl, rfl, hredraw, ?_, rfl, rfl, hsound, ?_⟩
  · rw [consumeRedraw_of_healthy (s := s.setRedraw false) hs, setRedraw_redraw]
  · rw [consumeSoundEnded_of_healthy (s := s.setSndEnded false) hs, setSndEnded_sndEnded]

/-- Rows of `n` entries each, one after the other: entry `c` of row `r` stands at `r * n + c`. -/
theorem getElem?_flatMap_of_length {α β : Type} {f : α → List β} {n c : Nat} (hf : ∀ a, (f a).length = n) (hc : c < n)
    (l : List α) (r : Nat) : (l.flatMap f)[r * n + c]? = l[r]?.bind fun a => (f a)[c]? := by
  induction l generalizing r with
  | nil => simp
  | cons a rest ih =>
    rw [List.flatMap_cons]
    cases r with
    | zero => rw [Nat.zero_mul, Nat.zero_add, List.getElem?_append_left (by rw [hf]; exact hc)]; rfl
    | succ r =>
      have hindex : (r + 1) * n + c - n = r * n + c := by rw [Nat.succ_mul]; omega
      rw [List.getElem?_append_right (by rw [hf, Nat.succ_mul]; omega), hf, hindex, ih]; rfl

/-- The bytes of one display row. -/
theorem length_row_cellBytes (row : Vector Bool 64) : (row.toList.map cellByte).length = 64 := by simp

/-- Settles O48: the read is the 32 rows one after the other, 64 bytes each. -/
theorem displayReadIsRowMajor : Obligations.DisplayReadIsRowMajor := by
  refine fun s => ⟨?_, fun r c => ?_⟩
  · rw [readDisplay, List.length_flatMap, List.map_congr_left fun row _ => length_row_cellBytes row]; simp
  · rw [readDisplay, getElem?_flatMap_of_length length_row_cellBytes c.isLt]
    have hrow : s.disp.toList[r.val]? = some s.disp[r.val] := by simp
    have hcell : s.disp[r.val].toList[c.val]? = some s.disp[r.val][c.val] := by simp
    rw [hrow, Option.bind_some, List.getElem?_map, hcell]
    rfl

end Sys2Proof
end

section
/-! PROOF. Reset and load (R34 of 10_state.md, R290, R293, R295 of 70_reset_and_hazards.md): what each leaves in memory
and elsewhere, and a fetch past the image. -/

namespace Sys2Proof

open Machine

/-! ## Reset (R34, R290) -/

theorem unlisted_of_le {a : Nat} (h : 80 ≤ a) : unlisted a = 0x00 := List.getD_eq_default _ _ h

section
variable (font : Vector Byte 80) (s : State)

theorem font_fits : 0 + font.toList.length ≤ Config.memSize := by simp [Config.memSize]

theorem readByte_resetOp_of_lt (k : Fin 80) : readByte (resetOp font s).mem k.val = font[k.val] := by
  have h := readByte_writeBytes_offset [] (k := k.val) (by simp) (font_fits font)
  rw [Nat.zero_add] at h
  exact h.trans (by simp)

theorem readByte_resetOp_of_le {a : Nat} (h : 80 ≤ a) : readByte (resetOp font s).mem a = 0x00 := by
  have outside : ¬(0 ≤ a ∧ a < 0 + font.toList.length) := by rw [Vector.length_toList]; omega
  have hread := readByte_writeBytes [] 0 a font.toList (font_fits font)
  exact (hread.trans (if_neg outside)).trans (unlisted_of_le h)

end

/-- Settles O49: memory is the font over the reset contents, and every other element is a constant of the reset
state. -/
theorem resetValues : Obligations.ResetValues := fun font s =>
  ⟨rfl, readByte_resetOp_of_lt font s, fun _ => readByte_resetOp_of_le font s,
    fun r => Vector.getElem_replicate r.isLt, rfl, rfl, fun k => Vector.getElem_replicate k.isLt, rfl, rfl,
    fun k => Vector.getElem_replicate k.isLt, cellAt_darkDisplay, rfl, rfl, rfl, rfl⟩

/-! ## load-program (R293) -/

theorem frameBut_setLoad (s : State) (p : LoadPhase) : FrameBut [.load] s (s.setLoad p) := by
  intro q hq
  cases q with
  | load => exact absurd (List.mem_singleton_self _) hq
  | _ => rfl

/-- Settles O50: an image that fits is one run of bytes from 0x200, and a longer one is only recorded. -/
theorem loadProgramPlacesImage : Obligations.LoadProgramPlacesImage := by
  refine fun image s => ⟨fun hle => ?_, fun hgt => ⟨_, loadProgram_of_gt hgt s, rfl, rfl, frameBut_setLoad s _⟩⟩
  have hfit := progBase_add_length_le hle
  refine ⟨_, loadProgram_of_le hle s, fun k hk => ?_, rfl, ?_⟩
  · exact (readByte_writeBytes_offset s.mem hk hfit).trans (List.getD_eq_getElem _ _ hk)
  · refine ((frame_setMem_writeBytes s hfit).trans (frameBut_setLoad _ _)).mono ?_
    rintro p (hp | hp)
    · exact .inr hp
    · exact .inl (List.mem_singleton.mp hp)

/-- Settles O52: past the image memory is as reset left it, and the word 0x0000 is unknown. -/
theorem runningOffTheImageHalts : Obligations.RunningOffTheImageHalts := by
  intro font image s a hlen heven hpast hle
  obtain ⟨t, ht, -, -, hframe⟩ := (loadProgramPlacesImage image (resetOp font s)).1 hlen
  have hzero (b : Nat) (hb : 0x200 + image.length ≤ b) : readByte t.mem b = 0x00 := by
    have outside : ¬∃ c, 0x200 ≤ c ∧ c < 0x200 + image.length ∧ Part.byte b = .byte c := by
      rintro ⟨c, -, hc, hbc⟩
      cases hbc; omega
    exact (hframe (.byte b) (by simpa using outside)).trans (readByte_resetOp_of_le font s (by omega))
  have hs : (t.setPc a).err = none := hframe .err (by simp)
  have hword : fetchWord (t.setPc a) = 0x0000 := by
    rw [fetchWord, setPc_mem, setPc_pc, hzero _ hpast, hzero _ (by omega)]; rfl
  have hunknown : decodeWord (fetchWord (t.setPc a)) = .error (.unknownInstruction 0x0000) := by rw [hword]; rfl
  refine ⟨t, ht, ?_⟩
  rw [cycle_of_fetchable hs (fetchError_eq_none.mpr ⟨hle, heven⟩), decodeAndRun_of_error hunknown, raise_eq, hword]

end Sys2Proof
end

section
/-! PROOF. The way back from a failed load (R245 of 60_exceptions.md, R290, R293 of 70_reset_and_hazards.md): a run
through operations that leave the schedule alone, then reset and load. -/

namespace Sys2Proof

open Machine

/-- The operation is none of the three that the load's record or the program depends on. -/
def Harmless (op : HostOp) : Prop := op ≠ .cycle ∧ (∀ f, op ≠ .reset f) ∧ ∀ img, op ≠ .loadProgram img

/-- Such an operation has a move in any state, and leaves the rest of the schedule alone. -/
theorem hostStep_of_harmless {op : HostOp} (h : Harmless op) (s : State) :
    ∃ t, hostStep op s = .next t ∧ t.schedule = s.schedule := by
  obtain ⟨hcycle, hreset, hload⟩ := h
  cases op with
  | cycle => exact absurd rfl hcycle
  | reset font => exact absurd rfl (hreset font)
  | loadProgram image => exact absurd rfl (hload image)
  | tick => exact ⟨_, rfl, tick_frame s .schedule (by simp)⟩
  | press k => exact ⟨_, rfl, press_frame k s .schedule (by simp)⟩
  | release k => exact ⟨_, rfl, release_frame k s .schedule (by simp)⟩
  | readDisplay => exact ⟨s, rfl, rfl⟩
  | consumeRedraw => exact ⟨_, rfl, consumeRedraw_frame s .schedule (by simp)⟩
  | consumeSoundEnded => exact ⟨_, rfl, consumeSoundEnded_frame s .schedule (by simp)⟩

/-- A run through such operations comes to what is scheduled after them. -/
theorem run_of_harmless {ops tail : List HostOp} (hops : ∀ op ∈ ops, Harmless op) {s : State}
    (hs : s.schedule = ops ++ tail) :
    ∃ t, t.schedule = tail ∧ ∀ n, core.run (ops.length + n) s = core.run n t := by
  induction ops generalizing s with
  | nil => exact ⟨s, hs, fun n => by rw [List.length_nil, Nat.zero_add]⟩
  | cons op rest ih =>
    obtain ⟨u, hu, hsched⟩ := hostStep_of_harmless (hops op (by simp)) (s.setSchedule (rest ++ tail))
    obtain ⟨t, ht, hrun⟩ := ih (fun op hop => hops op (by simp [hop])) hsched
    refine ⟨t, ht, fun n => ?_⟩
    rw [List.length_cons, Nat.add_right_comm]
    exact (run_succ _ core s u ((step_of_cons hs).trans hu)).trans (hrun n)

/-- A reset and a good load, the next two operations, bring the run to the image's first fetch (R292). -/
theorem run_reset_load {s : State} {font : Vector Byte 80} {hi lo : Byte} {good : List Byte} {rest : List HostOp}
    (hlen : good.length + 2 ≤ 3584) (hs : s.schedule = .reset font :: .loadProgram (hi :: lo :: good) :: rest) :
    ∃ t, core.run 2 s = .next t ∧ Healthy t ∧ Fetchable t ∧ fetchWord t = hi ++ lo ∧ t.load = .closed ∧
      t.schedule = rest := by
  obtain ⟨t, ht, -, hword, hhealthy, hfetch⟩ := entryPointIsFixed font hi lo good (s.setSchedule rest) hlen
  have hreset : step s = .next (resetOp font (s.setSchedule (.loadProgram (hi :: lo :: good) :: rest))) :=
    step_of_cons hs
  have hload : step (resetOp font (s.setSchedule (.loadProgram (hi :: lo :: good) :: rest))) = .next t :=
    (step_eq_load_of_cons rfl (show LoadPhase.awaited ≠ .closed by decide)).trans
      (congrArg (fun p => Host.Outcome.next p.1) ht)
  have hrun : core.run 2 s = .next t := (run_succ 1 core s _ hreset).trans (run_succ 0 core _ t hload)
  have himage : (hi :: lo :: good).length ≤ Config.maxImage := hlen
  rw [loadProgram_of_le himage] at ht
  cases ht
  exact ⟨_, hrun, hhealthy, hfetch, hword, rfl, rfl⟩

/-- Settles O58: the failed load is a step, the operations between leave the schedule, and reset and load follow. -/
theorem failedLoadIsRecoverable : Obligations.FailedLoadIsRecoverable := by
  intro s bad between font hi lo good rest hl hbad hgood hbetween hs
  have hfirst := step_eq_load_of_cons hs hl
  rw [loadProgram_of_gt hbad] at hfirst
  obtain ⟨u, hu, hrun⟩ := run_of_harmless (s := (s.setSchedule _).setLoad .failed) hbetween rfl
  obtain ⟨t, ht, hrest⟩ := run_reset_load hgood hu
  exact ⟨⟨_, hfirst, rfl, rfl, rfl⟩, t, (run_succ _ core s _ hfirst).trans ((hrun 2).trans ht), hrest⟩

end Sys2Proof
end

section
/-! PROOF. What every instruction writes, raises and reads (R10, R37, R115, R246 of the spec): its own check and its own
parts, and that the host's side of the state is not read. -/

namespace Sys2Proof

open Machine

/-! ## The check an instruction makes (R246) -/

/-- The error of the instruction's own check, if the check fails. -/
def ownError (i : Instr) (s : State) : Option ErrorValue :=
  match i with
  | .call _ => if s.sp.val = 16 then some (.stackOverflow s.pc) else none
  | .ret => if s.sp.val = 0 then some (.stackUnderflow s.pc) else none
  | .draw _ _ n => rangeError s.I n
  | .storeBcd _ => rangeError s.I 3
  | .storeRegisters x | .loadRegisters x => rangeError s.I (x.val + 1)
  | .skipKeyPressed x | .skipKeyNotPressed x => keyError (s.reg x)
  | _ => none

theorem rangeError_eq_some_iff {I : Word} {n : Nat} {e : ErrorValue} :
    rangeError I n = some e ↔ 1 ≤ n ∧ I.toNat + n > 4096 ∧ e = .memOutOfRange (max I.toNat 0x1000) := by
  refine ⟨rangeError_eq_some, fun ⟨hn, hgt, he⟩ => ?_⟩
  rw [rangeError, if_pos (by omega), he]

theorem keyError_eq_some_iff {v : Byte} {e : ErrorValue} :
    keyError v = some e ↔ v.toNat > 15 ∧ e = .keyIndexOutOfRange v := by
  rw [keyError, Option.ite_none_right_eq_some, Option.some.injEq, eq_comm (a := e)]

/-- The statement's table of errors is that check. -/
theorem mayRaise_iff {i : Instr} {s : State} {e : ErrorValue} : mayRaise i s e ↔ ownError i s = some e := by
  cases i with
  | call | ret =>
    simp only [mayRaise, ownError]
    rw [Option.ite_none_right_eq_some, Option.some.injEq, eq_comm (a := e)]
  | draw => exact rangeError_eq_some_iff.symm
  | storeBcd => exact (and_iff_right (by decide)).symm.trans rangeError_eq_some_iff.symm
  | storeRegisters x | loadRegisters x =>
    exact (and_iff_right (Nat.succ_pos x.val)).symm.trans rangeError_eq_some_iff.symm
  | skipKeyPressed | skipKeyNotPressed => exact keyError_eq_some_iff.symm
  | _ => simp [mayRaise, ownError]

theorem ownError_eq_none_iff {i : Instr} {s : State} : ownError i s = none ↔ ∀ e, ¬mayRaise i s e := by
  simp only [mayRaise_iff, Option.eq_none_iff_forall_ne_some, ne_eq]

/-! ## An instruction whose check fails -/

section
variable {i : Instr} {s t u : State} {e : ErrorValue}

/-- Where its check fails an instruction latches that error and changes nothing else (R10, R247). -/
theorem exec_of_ownError (h : ownError i s = some e) : exec i s = .next (s.setErr (some e)) := by
  cases i with
  | call addr =>
    obtain ⟨hsp, rfl⟩ := mayRaise_iff.mpr h
    exact exec_call_of_full addr hsp
  | ret =>
    obtain ⟨hsp, rfl⟩ := mayRaise_iff.mpr h
    exact exec_ret_of_empty hsp
  | draw | storeBcd | storeRegisters | loadRegisters | skipKeyPressed | skipKeyNotPressed => exact checked_of_some h
  | _ => cases h

/-! ## An instruction that completes -/

theorem FrameBut.frame {q : Part} (h : FrameBut [q] s t) : Frame (· = q) s t := h.mono fun _ => List.mem_singleton.mp

theorem Frame.swap {c d : Part → Prop} (h : Frame (fun p => c p ∨ d p) s t) : Frame (fun p => d p ∨ c p) s t :=
  h.mono fun _ => Or.symm

/-! One lemma per way an instruction ends: `u` is the state with its effect, before `pc` moves. -/

theorem frame_advance {c : Part → Prop} (h : advance u = .next t) (hu : Frame c s u) :
    Frame (fun p => p = .pc ∨ c p) s t := by
  cases h; exact (hu.trans (frameBut_setPc u _).frame).swap

theorem frame_skipIf {b : Bool} (h : skipIf b s = .next t) : Frame (· = .pc) s t := by
  cases h; exact (frameBut_setPc s _).frame

theorem frame_goTo {a : Word} (h : goTo a s = .next t) : Frame (· = .pc) s t := by
  cases h; exact (frameBut_setPc s _).frame

theorem frame_setResultFlag (s : State) (x : RegIdx) (v : Byte) (f : Bool) :
    Frame (fun p => p = .reg x ∨ p = .reg VF) s (s.setResultFlag x v f) :=
  (frameBut_setReg s x v).frame.trans (frameBut_setReg _ VF _).frame

theorem execWaitKey_frame {x : RegIdx} (h : execWaitKey x s = .next t) : Frame (writes (.waitKey x) s) s t := by
  unfold execWaitKey at h
  split at h
  · exact frame_advance h (frameBut_setReg s x _).frame
  · cases h; exact Frame.refl _ s

theorem exec_call_frame {addr : BitVec 12} (hsp : s.sp.val ≠ 16) (h : exec (.call addr) s = .next t) :
    Frame (writes (.call addr) s) s t := by
  have hlt : s.sp.val < 16 := by omega
  obtain ⟨u, hu, -, -, -, hframe⟩ := exec_call_of_free (k := ⟨s.sp.val, hlt⟩) addr rfl
  cases h.symm.trans hu
  refine hframe.mono fun p hp => ?_
  simp only [List.mem_cons, List.not_mem_nil, or_false] at hp
  exact hp.imp_right (Or.imp_right fun hslot => ⟨⟨s.sp.val, hlt⟩, rfl, hslot⟩)

theorem exec_ret_frame (hsp : s.sp.val ≠ 0) (h : exec .ret s = .next t) : Frame (writes .ret s) s t := by
  obtain ⟨u, hu, -, -, hframe⟩ := exec_ret_of_used (s := s) (k := ⟨s.sp.val - 1, by omega⟩) (by simp only; omega)
  cases h.symm.trans hu
  exact hframe.mono fun p hp => by simpa [writes] using hp

/-- The bytes at `I` that a store in range writes (R65). -/
theorem frame_store {n : Nat} {l : List Byte} (hfit : s.I.toNat + n ≤ Config.memSize) (hl : l.length = n) :
    Frame (fun p => ∃ a, s.I.toNat ≤ a ∧ a < s.I.toNat + n ∧ p = .byte a) s
      (s.setMem (writeBytes s.mem s.I.toNat l)) := by
  subst hl; exact frame_setMem_writeBytes s hfit

/-- Where its check passes an instruction changes its own parts alone (R37, R65). -/
theorem exec_frame (hown : ownError i s = none) (h : exec i s = .next t) : Frame (writes i s) s t := by
  cases i with
  | call => exact exec_call_frame (fun hsp => by simp [ownError, hsp] at hown) h
  | ret => exact exec_ret_frame (fun hsp => by simp [ownError, hsp] at hown) h
  | jump | jumpOffset => exact frame_goTo h
  | skipEqImm | skipNeImm | skipEqReg | skipNeReg => exact frame_skipIf h
  | skipKeyPressed | skipKeyNotPressed => exact frame_skipIf ((checked_of_none hown).symm.trans h)
  | waitKey => exact execWaitKey_frame h
  | loadImm | addImm | loadReg | orReg | andReg | xorReg | loadDelay =>
    exact frame_advance h (frameBut_setReg s _ _).frame
  | addReg | subReg | subnReg | shiftRight | shiftLeft => exact frame_advance h (frame_setResultFlag s _ _ _)
  | random => exact frame_advance h ((frameBut_setReg s _ _).frame.trans (frameBut_setDraws _ _).frame)
  | setIndex | addIndex | fontAddress => exact frame_advance h (frameBut_setI s _).frame
  | setDelay => exact frame_advance h (frameBut_setDT s _).frame
  | setSound => exact frame_advance h (frameBut_setST s _).frame
  | clearScreen => exact frame_advance h ((frame_setDisp s _).trans (frameBut_setRedraw _ _).frame).swap
  | draw => exact frame_advance ((checked_of_none hown).symm.trans h) frame_drawn
  | storeBcd =>
    have hfit := (rangeError_eq_none.mp hown).resolve_left (by decide)
    exact frame_advance ((checked_of_none hown).symm.trans h) (frame_store hfit (bcdDigits_length _))
  | storeRegisters x =>
    have hfit := (rangeError_eq_none.mp hown).resolve_left (Nat.succ_ne_zero _)
    exact frame_advance ((checked_of_none hown).symm.trans h)
      ((frame_store hfit (regsUpTo_length s x)).trans (frameBut_setI _ _).frame).swap
  | loadRegisters x =>
    have higher (j : RegIdx) (hj : ¬j ≤ x) : (regsLoaded s x)[j.val] = s.reg j :=
      (regsLoaded_get s x j).trans (if_neg hj)
    exact frame_advance ((checked_of_none hown).symm.trans h)
      ((frame_setRegs s higher).trans (frameBut_setI _ _).frame).swap

/-- The latch is no part that an instruction writes when it completes. -/
theorem not_writes_err : ¬writes i s .err := by cases i <;> simp [writes]

end

/-- Settles O54: an instruction whose check passes keeps to its parts, one whose check fails latches that error. -/
theorem instructionsWriteOnlyTheirParts : Obligations.InstructionsWriteOnlyTheirParts := by
  refine fun i s t h => ⟨fun hno => ?_, fun e he => ?_⟩
  · have hframe := exec_frame (ownError_eq_none_iff.mpr hno) h
    exact ⟨hframe, hframe .err not_writes_err⟩
  · cases h.symm.trans (exec_of_ownError (mayRaise_iff.mp he)); rfl

/-! ## The host's side of the state (R25, R28, R29, R35) -/

/-- Any change of `ST`, `snd_ended` and `redraw`, each by itself. -/
def onHostSide (g : Byte → Byte) (f r : Bool → Bool) (s : State) : State :=
  { s with ST := g s.ST, sndEnded := f s.sndEnded, redraw := r s.redraw }

/-- The outcome with a change made to the state it answers. -/
def mapNext (c : State → State) : Result → Result
  | .next s => .next (c s)
  | .fault e => .fault e
  | .refused e => .refused e

section
variable {g : Byte → Byte} {f r : Bool → Bool}

theorem pop_onHostSide (s : State) :
    (onHostSide g f r s).pop = s.pop.map fun p => (onHostSide g f r p.1, p.2) := by
  unfold State.pop
  by_cases h : 0 < s.sp.val <;> simp [onHostSide, h]

theorem push_onHostSide (s : State) (a : Word) :
    (onHostSide g f r s).push a = (s.push a).map (onHostSide g f r) := by
  unfold State.push
  by_cases h : s.sp.val < 16 <;> simp [onHostSide, h]

theorem checked_onHostSide {o : Option ErrorValue} {s : State} {k k' : Result} (h : k' = mapNext (onHostSide g f r) k) :
    checked o (onHostSide g f r s) k' = mapNext (onHostSide g f r) (checked o s k) := by
  subst h; cases o <;> rfl

/-- The change of the host's side may as well be made after the instruction, for an element it does not write. -/
theorem exec_onHostSide {i : Instr} (s : State) (hsound : (∃ x, i = .setSound x) → g = id)
    (hredraw : (i = .clearScreen ∨ ∃ x y n, i = .draw x y n) → r = id) :
    exec i (onHostSide g f r s) = mapNext (onHostSide g f r) (exec i s) := by
  cases i with
  | setSound x => obtain rfl := hsound ⟨x, rfl⟩; rfl
  | clearScreen => obtain rfl := hredraw (.inl rfl); rfl
  | draw x y n => obtain rfl := hredraw (.inr ⟨x, y, n, rfl⟩); exact checked_onHostSide rfl
  | skipKeyPressed | skipKeyNotPressed | storeBcd | storeRegisters | loadRegisters => exact checked_onHostSide rfl
  | ret =>
    rw [exec, execReturn, pop_onHostSide, exec, execReturn]
    cases s.pop <;> rfl
  | call addr =>
    rw [exec, execCall, exec, execCall, show (onHostSide g f r s).pc = s.pc from rfl, push_onHostSide]
    cases s.push (s.pc + 2) <;> rfl
  | waitKey x =>
    rw [exec, execWaitKey, exec, execWaitKey, show lowestKey (onHostSide g f r s) = lowestKey s from rfl]
    cases lowestKey s <;> rfl
  | _ => rfl

end

/-- Settles O55: a change of one element passes through every instruction that does not write it, and is lost in one
that does. -/
theorem hostSideStateIsUnreadable : Obligations.HostSideStateIsUnreadable := by
  intro i s t h
  have pass {g : Byte → Byte} {f r : Bool → Bool} (hsound : (∃ x, i = .setSound x) → g = id)
      (hredraw : (i = .clearScreen ∨ ∃ x y n, i = .draw x y n) → r = id) :
      exec i (onHostSide g f r s) = .next (onHostSide g f r t) := by
    rw [exec_onHostSide s hsound hredraw, h, mapNext]
  refine ⟨fun v hno => ?_, fun x v hi => ?_, fun b => ?_, fun b ⟨hclear, hdraw⟩ => ?_, fun b hi => ?_,
    fun b x y n hi => ⟨fun hno => ?_, fun e he => ?_⟩⟩
  · exact pass (g := fun _ => v) (f := id) (r := id) (fun ⟨x, hx⟩ => absurd hx (hno x)) fun _ => rfl
  · subst hi; exact h
  · exact pass (g := id) (f := fun _ => b) (r := id) (fun _ => rfl) fun _ => rfl
  · refine pass (g := id) (f := id) (r := fun _ => b) (fun _ => rfl) ?_
    rintro (hi | ⟨x, y, n, hi⟩)
    · exact absurd hi hclear
    · exact absurd hi (hdraw x y n)
  · subst hi; exact h
  · subst hi
    have hfit : n = 0 ∨ s.I.toNat + n ≤ Config.memSize := rangeError_eq_none.mp (ownError_eq_none_iff.mpr hno)
    exact (exec_draw_of_fits (s := s.setRedraw b) hfit).trans ((exec_draw_of_fits hfit).symm.trans h)
  · subst hi
    have hown := mayRaise_iff.mp he
    cases h.symm.trans (exec_of_ownError hown)
    exact exec_of_ownError (s := s.setRedraw b) hown

end Sys2Proof
end

section
/-! PROOF. The machine's invariant (R38, R130, R240, R247 of the spec): reset has it and every step keeps it; and that
the canonical form of memory leaves one list for each contents. -/

namespace Sys2Proof

open Machine

/-! ## Canonical memories (entry 10) -/

/-- With rising addresses a list holds exactly the entries that it looks up. -/
theorem mem_iff_lookup {m : Memory} (h : m.Pairwise (fun p q => p.1 < q.1)) {a : Nat} {v : Byte} :
    (a, v) ∈ m ↔ lookup m a = some v := by
  induction m with
  | nil => simp [lookup]
  | cons c rest ih =>
    obtain ⟨b, w⟩ := c
    obtain ⟨hfirst, hrest⟩ := List.pairwise_cons.mp h
    rw [lookup, List.mem_cons, Prod.mk.injEq]
    by_cases hab : a = b
    · have hnot : (a, v) ∉ rest := fun hmem => absurd (hfirst _ hmem) (by simp [hab])
      simp [hab, hab ▸ hnot, eq_comm]
    · simp [hab, ih hrest]

/-- In canonical form the entries are the bytes that differ from the reset contents. -/
theorem mem_iff_readByte {m : Memory} (h : memWf m) {a : Nat} {v : Byte} :
    (a, v) ∈ m ↔ readByte m a = v ∧ v ≠ unlisted a := by
  refine ⟨fun hmem => ⟨?_, (h.2 _ hmem).2⟩, fun ⟨hread, hv⟩ => ?_⟩
  · rw [readByte, (mem_iff_lookup h.1).mp hmem, Option.getD_some]
  · cases hl : lookup m a with
    | none => rw [readByte, hl, Option.getD_none] at hread; exact absurd hread.symm hv
    | some w =>
      rw [readByte, hl, Option.getD_some] at hread
      exact (mem_iff_lookup h.1).mpr (hl.trans (congrArg some hread))

/-- Settles O15: equal reads give equal entries, and a strictly rising list is known by its entries. -/
theorem equalReadsEqualMemories : Obligations.EqualReadsEqualMemories := by
  intro m m' h h' hread
  have : Std.Irrefl (fun p q : Host.Cell => p.1 < q.1) := ⟨fun p => Nat.lt_irrefl p.1⟩
  have : Std.Antisymm (fun p q : Host.Cell => p.1 < q.1) := ⟨fun _ _ hlt hgt => absurd hgt (Nat.lt_asymm hlt)⟩
  refine h.1.eq_of_mem_iff h'.1 fun ⟨a, v⟩ => ?_
  rw [mem_iff_readByte h, mem_iff_readByte h', hread]

/-! ## Reset -/

/-- Settles O14: the reset state has no byte listed, no frame in use and no error. -/
theorem resetHasInv : Obligations.ResetHasInv :=
  ⟨memWf_nil, by decide, fun _ hk => absurd hk (Nat.not_lt_zero _), trivial, fun hno => absurd rfl hno⟩

/-! ## What an instruction keeps of the invariant -/

section
variable {i : Instr} {s t u : State} {e : ErrorValue}

/-- Memory is as it was, or a run of bytes was written. -/
def MemKept (s t : State) : Prop := t.mem = s.mem ∨ ∃ a l, t.mem = writeBytes s.mem a l

theorem MemKept.memWf (h : MemKept s t) (hs : memWf s.mem) : memWf t.mem := by
  rcases h with h | ⟨a, l, h⟩
  · rw [h]; exact hs
  · rw [h]; exact memWf_writeBytes hs a l

theorem memKept_advance (h : advance u = .next t) (hu : MemKept s u) : MemKept s t := by
  cases h; exact hu

theorem execWaitKey_memKept {x : RegIdx} (h : execWaitKey x s = .next t) : MemKept s t := by
  unfold execWaitKey at h
  split at h
  · exact memKept_advance h (.inl rfl)
  · cases h; exact .inl rfl

/-- Only the two stores write memory, and they write runs of bytes (R59, R65). -/
theorem exec_memKept (hown : ownError i s = none) (h : exec i s = .next t) : MemKept s t := by
  cases i with
  | call => rcases exec_call_cases h with ⟨-, rfl⟩ | ⟨-, rfl⟩ <;> exact .inl rfl
  | ret => rcases exec_ret_cases h with ⟨-, rfl⟩ | ⟨-, rfl⟩ <;> exact .inl rfl
  | waitKey => exact execWaitKey_memKept h
  | storeBcd | storeRegisters =>
    exact memKept_advance ((checked_of_none hown).symm.trans h) (.inr ⟨_, _, rfl⟩)
  | draw | loadRegisters =>
    exact memKept_advance ((checked_of_none hown).symm.trans h) (.inl rfl)
  | skipKeyPressed | skipKeyNotPressed => cases (checked_of_none hown).symm.trans h; exact .inl rfl
  | _ => cases h; exact .inl rfl

/-- A completed instruction leaves `pc` at most 0x10FE: two or four past a fetchable address, a literal with at most a
byte added, or a return address (R38). -/
theorem pcAfter_le (hinv : StateInv s) (hf : Fetchable s) (hown : ownError i s = none) :
    (pcAfter i s).toNat ≤ 0x10FE := by
  have hpc := hf.1
  have two : (s.pc + 2).toNat ≤ 0x10FE := by bv_omega
  have four : (s.pc + 4).toNat ≤ 0x10FE := by bv_omega
  cases i with
  | ret =>
    have hpos : 0 < s.sp.val := by
      by_contra hz; simp [ownError, Nat.eq_zero_of_not_pos hz] at hown
    have hlt : s.sp.val - 1 < 16 := by omega
    rw [pcAfter_ret hpos]
    exact (hinv.frames ⟨s.sp.val - 1, hlt⟩ (Nat.sub_lt hpos Nat.one_pos)).2.trans (by decide)
  | jump addr | call addr => exact (toNat_addrOperand addr).le.trans (by have := addr.isLt; omega)
  | jumpOffset addr =>
    have haddr := addr.isLt
    have hreg := (s.reg 0).isLt
    exact (toNat_addrOperand_add_regOperand16 addr s 0).le.trans (by omega)
  | skipEqImm | skipNeImm | skipEqReg | skipNeReg | skipKeyPressed | skipKeyNotPressed =>
    rw [pcAfter]; split <;> assumption
  | waitKey =>
    rw [pcAfter]; split
    · exact two
    · exact hinv.pc
  | _ => exact two

/-- Bit 0 of an address says whether it is odd. -/
theorem getLsbD_zero_eq_false_iff {a : Word} : a.getLsbD 0 = false ↔ a.toNat % 2 = 0 := by simp [BitVec.getLsbD]

/-- The address after a fetchable one is even and at most 0x1000: what a call pushes (R130, R132). -/
theorem returnAddress_fits (hf : Fetchable s) : (s.pc + 2).getLsbD 0 = false ∧ (s.pc + 2).toNat ≤ 0x1000 := by
  obtain ⟨hle, heven⟩ := hf
  rw [getLsbD_zero_eq_false_iff] at heven ⊢
  have hsum : (s.pc + 2).toNat = s.pc.toNat + 2 := by bv_omega
  omega

/-- Every frame in use holds an even address not above 0x1000: the invariant's clause on the stack (R130). -/
def FramesFit (s : State) : Prop :=
  ∀ k : Fin 16, k.val < s.sp.val → s.stack[k.val].getLsbD 0 = false ∧ s.stack[k.val].toNat ≤ 0x1000

/-- The return addresses in use stay even and inside the space: only a call adds one, the address after it (R130). -/
theorem exec_frames (hinv : StateInv s) (hf : Fetchable s) (hown : ownError i s = none) (h : exec i s = .next t) :
    FramesFit t := by
  have kept (hsp : ¬writes i s .sp) (hslot : ∀ k, ¬writes i s (.slot k)) : FramesFit t := by
    intro k hk
    have hframe := exec_frame hown h
    rw [show t.stack[k.val] = s.stack[k.val] from hframe (.slot k) (hslot k)]
    exact hinv.frames k (hk.trans_eq (congrArg Fin.val (hframe .sp hsp)))
  cases i with
  | ret =>
    rcases exec_ret_cases h with ⟨-, rfl⟩ | ⟨hpos, rfl⟩
    · exact hinv.frames
    · exact fun k hk => hinv.frames k (lt_of_lt_of_le hk (Nat.sub_le _ 1))
  | call =>
    rcases exec_call_cases h with ⟨-, rfl⟩ | ⟨hlt, rfl⟩
    · exact hinv.frames
    · intro k hk
      simp only [setPc_stack, setPc_sp, Vector.getElem_set] at hk ⊢
      split
      · exact returnAddress_fits hf
      · next hne => exact hinv.frames k (by omega)
  | _ => exact kept (by simp [writes]) (by simp [writes])

/-! ## A latched error fits (R240, R247) -/

/-- A raised error leaves the invariant, if it fits: nothing else changed. -/
theorem StateInv.setErr (hinv : StateInv s) (hl : s.load = .closed) (hfit : ErrorFits (s.setErr (some e))) :
    StateInv (s.setErr (some e)) :=
  ⟨hinv.mem, hinv.pc, hinv.frames, hfit, fun _ => hl⟩

theorem errorFits_of_ownError (hf : Fetchable s) (hown : ownError i s = some e) : ErrorFits (s.setErr (some e)) := by
  have hmay := mayRaise_iff.mpr hown
  cases i with
  | call | ret => obtain ⟨hsp, rfl⟩ := hmay; exact ⟨rfl, hsp⟩
  | draw => obtain ⟨-, -, rfl⟩ := hmay; exact .inr ⟨rfl, hf⟩
  | storeBcd | storeRegisters | loadRegisters => obtain ⟨-, rfl⟩ := hmay; exact .inr ⟨rfl, hf⟩
  | skipKeyPressed x | skipKeyNotPressed x => obtain ⟨hgt, rfl⟩ := hmay; exact ⟨⟨x, rfl⟩, hgt⟩
  | _ => exact hmay.elim

theorem errorFits_of_fetchError (he : fetchError s.pc = some e) : ErrorFits (s.setErr (some e)) := by
  unfold fetchError at he
  split at he
  · next hgt => cases he; exact .inl ⟨rfl, hgt⟩
  · next hle =>
    split at he
    · next hodd => cases he; exact ⟨rfl, hodd, Nat.le_of_not_lt hle⟩
    · cases he

/-! ## An instruction, a cycle -/

theorem exec_keepsInv (hinv : StateInv s) (hs : Healthy s) (hl : s.load = .closed) (hf : Fetchable s)
    (h : exec i s = .next t) : StateInv t := by
  cases hown : ownError i s with
  | some e =>
    cases h.symm.trans (exec_of_ownError hown)
    exact hinv.setErr hl (errorFits_of_ownError hf hown)
  | none =>
    have ht : t.err = none := (exec_frame hown h .err not_writes_err).trans hs
    refine ⟨(exec_memKept hown h).memWf hinv.mem, ?_, exec_frames hinv hf hown h, ?_, fun hno => absurd ht hno⟩
    · rw [(exec_endsAt h).pc_of_healthy ht]; exact pcAfter_le hinv hf hown
    · rw [ErrorFits, ht]; trivial

theorem cycle_keepsInv (hinv : StateInv s) (hl : s.load = .closed) (h : cycle s = .next t) : StateInv t := by
  cases herr : s.err with
  | some e => rw [cycle_of_halted herr] at h; cases h; exact hinv
  | none =>
    rw [cycle_of_healthy herr] at h
    rcases checked_next h with ⟨hok, h⟩ | ⟨e, he, rfl⟩
    · have hf : Fetchable s := fetchError_eq_none.mp hok
      cases hd : decodeWord (fetchWord s) with
      | ok i => exact exec_keepsInv hinv herr hl hf ((decodeAndRun_of_ok hd).symm.trans h)
      | error e =>
        rw [decodeAndRun_of_error hd, raise_eq] at h
        cases h
        exact hinv.setErr hl ⟨hf, rfl, hd.trans (congrArg Except.error (decodeWord_error hd))⟩
    · exact hinv.setErr hl (errorFits_of_fetchError he)

/-! ## The host's operations -/

/-- A healthy state keeps the invariant where `pc` and the stack are as before and memory is canonical. -/
theorem StateInv.of_healthy (hinv : StateInv s) (ht : Healthy t) (hmem : memWf t.mem) (hpc : t.pc = s.pc)
    (hsp : t.sp = s.sp) (hstack : t.stack = s.stack) : StateInv t := by
  refine ⟨hmem, hpc ▸ hinv.pc, ?_, ?_, fun hno => absurd ht hno⟩
  · rw [hsp, hstack]; exact hinv.frames
  · rw [ErrorFits, show t.err = none from ht]; trivial

/-- No part of the invariant speaks of the schedule. -/
theorem StateInv.setSchedule (hinv : StateInv s) (ops : List HostOp) : StateInv (s.setSchedule ops) :=
  ⟨hinv.mem, hinv.pc, hinv.frames, hinv.error, hinv.halted⟩

theorem StateInv.setLoad_closed (hinv : StateInv s) : StateInv (s.setLoad .closed) :=
  ⟨hinv.mem, hinv.pc, hinv.frames, hinv.error, fun _ => rfl⟩

theorem resetOp_inv (font : Vector Byte 80) (s : State) : StateInv (resetOp font s) :=
  ⟨memWf_resetOp font s, resetHasInv.pc, resetHasInv.frames, trivial, fun hno => absurd rfl hno⟩

theorem hostCycle_keepsInv (hinv : StateInv s) (h : hostCycle s = .next t) : StateInv t := by
  rcases hostCycle_cases s with ⟨-, hr⟩ | ⟨-, hr⟩
  · cases h.symm.trans hr
  · exact cycle_keepsInv hinv.setLoad_closed rfl (hr.symm.trans h)

/-- A load is answered in a healthy state only: in a halted one the load's record is closed. -/
theorem hostLoad_keepsInv {image : List Byte} (hinv : StateInv s) (h : hostLoad image s = .next t) : StateInv t := by
  rcases hostLoad_cases image s with ⟨-, hr⟩ | ⟨hl, hr⟩
  · cases h.symm.trans hr
  · have hs : Healthy s := not_not.mp (mt hinv.halted hl)
    cases h.symm.trans hr
    by_cases hle : image.length ≤ Config.maxImage
    · rw [loadProgram_of_le hle]
      exact hinv.of_healthy hs (memWf_writeBytes hinv.mem _ _) rfl rfl rfl
    · rw [loadProgram_of_gt (Nat.lt_of_not_le hle)]
      exact hinv.of_healthy hs hinv.mem rfl rfl rfl

theorem hostStep_keepsInv {op : HostOp} (hinv : StateInv s) (h : hostStep op s = .next t) : StateInv t := by
  cases op with
  | reset font => cases h; exact resetOp_inv font s
  | loadProgram image => exact hostLoad_keepsInv hinv h
  | cycle => exact hostCycle_keepsInv hinv h
  | readDisplay => cases h; exact hinv
  | tick | press | release | consumeRedraw | consumeSoundEnded =>
    by_cases hs : Healthy s
    · simp only [hostStep, tick_of_healthy hs, press_of_healthy _ hs, release_of_healthy _ hs,
        consumeRedraw_of_healthy hs, consumeSoundEnded_of_healthy hs] at h
      cases h
      exact hinv.of_healthy hs hinv.mem rfl rfl rfl
    · obtain ⟨e, he⟩ := Option.ne_none_iff_exists'.mp hs
      cases h.symm.trans (hostStep_of_halted he (hinv.halted hs) ⟨by simp, by simp⟩)
      exact hinv

end

/-- Settles O13: a step is the host's cycle, or the scheduled operation on a state that differs in its schedule
alone. -/
theorem stepKeepsInv : Obligations.StepKeepsInv := by
  intro s t hinv h
  cases hs : s.schedule with
  | nil => exact hostCycle_keepsInv hinv ((step_of_nil hs).symm.trans h)
  | cons op rest => exact hostStep_keepsInv (hinv.setSchedule rest) ((step_of_cons hs).symm.trans h)

end Sys2Proof
end
